-- ==== Sys2Proof/Word.lean ====
section
/-! DEFINITION. The widths of the capture block (00_scope.md R10, 30_encoding.md R60). -/

namespace Sys2Proof

/-- A register, a source word, an operand or a response: 32 bits (R10, R60, R63). -/
abbrev Word := BitVec 32

/-- A narrowed sample: 16 bits, two's complement (R10). -/
abbrev Sample := BitVec 16

/-- One byte of the payload (R40). -/
abbrev Byte := BitVec 8

/-- A format-C word on the command port: 40 bits (R60, R61). -/
abbrev CommandWord := BitVec 40

end Sys2Proof
end

