-- ==== Sys2Proof/Syntax.lean ====
section
/-! DEFINITION. The transactions of the block (30_encoding.md R60-R65): one constructor per row of the
opcode table, the offers that reach the three inputs, and the lines of a program (R68, R69). -/

namespace Sys2Proof

/-- One constructor per row of the opcode table. A command whose `arg` the block ignores (R64) still
carries it, so that no bit of an encoding is lost between decoding and encoding (DESIGN CHOICE, log entry 10). -/
inductive Instr where
  /-- `NOP`, R120. -/
  | nop (arg : Word)
  /-- `SET_RATE r`, R121. -/
  | setRate (rate : Word)
  /-- `SET_SECONDS s`, R122. -/
  | setSeconds (seconds : Word)
  /-- `START`, R123. -/
  | start (arg : Word)
  /-- `RELEASE`, R124. -/
  | release (arg : Word)
  /-- `READ_STATUS`, R126. -/
  | readStatus (arg : Word)
  /-- `READ_REG sel`, R127. -/
  | readReg (sel : Word)
  /-- `READ_PAYLOAD a`, R107. -/
  | readPayload (addr : Word)
  /-- `NARROW w`, R85. -/
  | narrow (word : Word)
  /-- `PUSH w` on the sample port, R82. -/
  | push (word : Word)
  /-- The reset input, R170. -/
  | reset
  deriving DecidableEq, Repr

/-- The three agents that act on the block (R7). -/
inductive Agent where
  | host
  | source
  | reset
  deriving DecidableEq, Repr

/-- A transaction as it arrives, before decoding: the input it arrives on tells its format (R60). -/
inductive Offer where
  /-- Format C on the command port (R61). -/
  | command (bits : CommandWord)
  /-- Format S on the sample port (R62). -/
  | sample (bits : Word)
  /-- Format X on the reset input: no bits. -/
  | reset
  deriving DecidableEq, Repr

/-- The mnemonics a command line may use (R65, R68). -/
inductive Mnemonic where
  | nop | setRate | setSeconds | start | release | readStatus | readReg | readPayload | narrow
  deriving DecidableEq, Repr

/-- One line of a program (R68) or one pseudo-instruction (R69). An operand is written as a number,
which `Line.wellFormed` bounds. The two host-side loops of R69 carry the count the host runs them for. -/
inductive Line where
  /-- `MNEMONIC [operand]`. -/
  | command (m : Mnemonic) (operand : Option Nat)
  /-- `PUSH operand`. -/
  | push (operand : Nat)
  /-- `RESET`. -/
  | reset
  /-- `; any text`. -/
  | comment
  /-- `CMD n, a`: any opcode value of 8 bits (DESIGN CHOICE, log entry 16). -/
  | cmd (op : Nat) (arg : Nat)
  /-- `CONFIG r, s`. -/
  | config (rate seconds : Nat)
  /-- `CAPTURE r, s`. -/
  | capture (rate seconds : Nat)
  /-- `PUSHBLK w1, ..., wn`: one HardwareFrame (R84), which may hold no word (DESIGN CHOICE, log entry 17). -/
  | pushBlock (words : List Nat)
  /-- `WAITDONE`, for the number of polls the host makes. -/
  | waitDone (polls : Nat)
  /-- `READHDR`. -/
  | readHdr
  /-- `READALL`, for the length `L` that `READ_REG 5` gave the host. -/
  | readAll (len : Nat)
  deriving DecidableEq, Repr

end Sys2Proof
end

