-- ==== Sys2Proof/Decode.lean ====
section
/-! DEFINITION. Decoding and encoding of the three formats (30_encoding.md R60-R67). The format is told
by the input, never by the bits (R60); one decoder serves each input, and a command whose opcode is no
row of R65 is rejected by name. -/

namespace Sys2Proof

/-- Why an offer is no instruction of the table. -/
inductive DecodeError where
  /-- A format-C word with `op` in `0x09 .. 0xFF` (R66). The block still has an effect for it, R128. -/
  | illegalOpcode (op : BitVec 8)
  deriving DecidableEq, Repr

/-- Bits 39:32 of a command (R61). -/
def commandOp (c : CommandWord) : BitVec 8 := c.extractLsb' 32 8

/-- Bits 31:0 of a command (R61). -/
def commandArg (c : CommandWord) : Word := c.extractLsb' 0 32

/-- A format-C word from its two fields (R61, R70). -/
def commandWord (op : BitVec 8) (arg : Word) : CommandWord := op ++ arg

/-- The opcode map of the command port (R65). -/
def decodeCommand (c : CommandWord) : Except DecodeError Instr :=
  match (commandOp c).toNat with
  | 0x00 => .ok (.nop (commandArg c))
  | 0x01 => .ok (.setRate (commandArg c))
  | 0x02 => .ok (.setSeconds (commandArg c))
  | 0x03 => .ok (.start (commandArg c))
  | 0x04 => .ok (.release (commandArg c))
  | 0x05 => .ok (.readStatus (commandArg c))
  | 0x06 => .ok (.readReg (commandArg c))
  | 0x07 => .ok (.readPayload (commandArg c))
  | 0x08 => .ok (.narrow (commandArg c))
  | _ => .error (.illegalOpcode (commandOp c))

/-- The instruction an offer stands for. Every sample word is a `PUSH` and the reset input has one
transaction (R65, R66). -/
def decode : Offer → Except DecodeError Instr
  | .command c => decodeCommand c
  | .sample w => .ok (.push w)
  | .reset => .ok .reset

/-- The offer that carries an instruction, written from the table of R65. -/
def encode : Instr → Offer
  | .nop arg => .command (commandWord 0x00 arg)
  | .setRate rate => .command (commandWord 0x01 rate)
  | .setSeconds seconds => .command (commandWord 0x02 seconds)
  | .start arg => .command (commandWord 0x03 arg)
  | .release arg => .command (commandWord 0x04 arg)
  | .readStatus arg => .command (commandWord 0x05 arg)
  | .readReg sel => .command (commandWord 0x06 sel)
  | .readPayload addr => .command (commandWord 0x07 addr)
  | .narrow word => .command (commandWord 0x08 word)
  | .push word => .sample word
  | .reset => .reset

/-- The offer whose bits, numbered as the opcode table numbers them, are `w`: the table's width is the
input's fixed width, so it tells the input (R60, R67). -/
def offerOfTable (nbits w : Nat) : Option Offer :=
  match nbits with
  | 40 => some (.command (BitVec.ofNat 40 w))
  | 32 => some (.sample (BitVec.ofNat 32 w))
  | 0 => some .reset
  | _ => none

/-- What `decode` reads from an instruction of `nbits` bits whose bits are `w`. -/
def decodeTableWord (nbits w : Nat) : Option Instr :=
  match offerOfTable nbits w with
  | none => none
  | some o =>
    match decode o with
    | .ok i => some i
    | .error _ => none

end Sys2Proof
end

