-- ==== Sys2Proof/Config.lean ====
section
/-! DEFINITION. What a build fixes (00_scope.md R8) and the one value the spec leaves unspecified
(10_state.md R36). -/

namespace Sys2Proof

/-- The largest capacity a build may have, so that `4 * CAP` fits in 32 bits (R8). -/
def Config.capMax : Nat := 2 ^ 30 - 1

/-- The capacities a build may have (R8). -/
abbrev Config.capLegal (cap : Nat) : Prop := 1 ≤ cap ∧ cap ≤ Config.capMax

/-- The reference build's capacity (R8). -/
def Config.capReference : Nat := 48000

/-- FREE VALUE (DESIGN CHOICE, log entry 2): the byte an unwritten place of `BUF` holds after the `draw`-th reset.
R36 leaves the contents unspecified and R170 gives each reset contents of its own. -/
opaque Config.bufUnspecified : (draw : Nat) → (addr : Nat) → Byte

end Sys2Proof
end

