-- ==== Sys2Proof/Machine/State.lean ====
section
/-! DEFINITION. The state as plain data: the block exactly as 10_state.md R20 lists it, the build
parameter, and the three agents of 00_scope.md R7 beside it. -/

namespace Sys2Proof.Machine

/-- The phase register `STATE` (R21). Its fourth code, 3, is never held. -/
inductive Phase where
  | idle
  | capture
  | done
  deriving DecidableEq, Repr

/-- The five sticky error flags (R28). -/
inductive ErrFlag where
  | illegal
  | cfglock
  | cap
  | phase
  | range
  deriving DecidableEq, Repr

/-- The bytes of `BUF` written since the last reset: entry `k` is byte `2 * k` (bits 7:0) and byte
`2 * k + 1` (bits 15:8), in the order of the payload (R43, DESIGN CHOICE, log entry 3). Addresses rise strictly. -/
abbrev Memory := List Host.Cell

/-- The state of the capture block: R20's table and nothing else. -/
structure Block where
  /-- `STATE`, R21. -/
  phase : Phase
  /-- `RATE`, R22. -/
  rate : Word
  /-- `SECONDS`, R23. -/
  seconds : Word
  /-- `TARGET`, R24. -/
  target : Word
  /-- `VALID`, R25. -/
  valid : Word
  /-- `RAWB`, R26. -/
  rawb : Word
  /-- `BUF`, R27. -/
  buf : Memory
  /-- `ERR_ILLEGAL`, R28. -/
  errIllegal : Bool
  /-- `ERR_CFGLOCK`, R28. -/
  errCfglock : Bool
  /-- `ERR_CAP`, R28. -/
  errCap : Bool
  /-- `ERR_PHASE`, R28. -/
  errPhase : Bool
  /-- `ERR_RANGE`, R28. -/
  errRange : Bool
  deriving DecidableEq, Repr

/-- The block, the parameter it was built with, and the agents. The fields beside `block` are the
model's own (DESIGN CHOICE, log entries 1, 2, 4, 7): R20 says that they are no state of the block. -/
structure State where
  /-- `CAP`, the build parameter (R8, DESIGN CHOICE, log entry 1). No transaction writes it (R30). -/
  cap : Nat
  /-- The capture block. -/
  block : Block
  /-- The commands the host is still to issue, oldest first. -/
  commands : List CommandWord
  /-- The responses the host has received, oldest first (R63). -/
  responses : List Word
  /-- The words the source is still to deliver; the head is the one on the port (R35). -/
  samples : List Word
  /-- The agents in the order in which their offers are made: the total order of R48. -/
  turns : List Agent
  /-- Which draw of unspecified `BUF` contents is in force (DESIGN CHOICE, log entry 2). -/
  bufDraw : Nat
  deriving DecidableEq, Repr

/-- Why the machine stops with a fault. -/
inductive Fault where
  /-- Raised by `PUSH` and `READ_PAYLOAD` on a buffer entry at or past `CAP`, which does not exist (R40).
  No state that meets the invariant of R32 raises it. Safe (DESIGN CHOICE, log entry 8). -/
  | bufferIndex (index : Nat)
  deriving DecidableEq, Repr

/-- Why an instruction has no meaning. -/
inductive Refusal where
  /-- An instruction whose arm of `exec` is still rejected by name. Raised by no arm. Safe. -/
  | notModelled (mnemonic : String)
  deriving DecidableEq, Repr

/-- The reset values of R36. No byte of `BUF` is defined. -/
def Block.reset : Block where
  phase := .idle
  rate := 0
  seconds := 0
  target := 0
  valid := 0
  rawb := 0
  buf := []
  errIllegal := false
  errCfglock := false
  errCap := false
  errPhase := false
  errRange := false

/-- A build of capacity `cap` right after power-on, which is a reset (R172), with nothing offered. -/
def State.resetOf (cap : Nat) : State where
  cap := cap
  block := Block.reset
  commands := []
  responses := []
  samples := []
  turns := []
  bufDraw := 0

/-- The reference build (R8) right after power-on. -/
def State.reset : State := State.resetOf Config.capReference

end Sys2Proof.Machine
end

