-- ==== Sys2Proof/Machine/Flags.lean ====
section
/-! DEFINITION. The sticky error flags (10_state.md R28, 60_exceptions.md R151) and the status word
(R29). The block has no trap (R150): `raise` is all an error does. -/

namespace Sys2Proof.Machine

/-- The cause code of an error is its bit position in the status word (R151). -/
def ErrFlag.code : ErrFlag → Nat
  | .illegal => 8
  | .cfglock => 9
  | .cap => 10
  | .phase => 11
  | .range => 12

/-- A flag's value. -/
def Block.flag (b : Block) : ErrFlag → Bool
  | .illegal => b.errIllegal
  | .cfglock => b.errCfglock
  | .cap => b.errCap
  | .phase => b.errPhase
  | .range => b.errRange

/-- `raise ERR_X`: set the flag and go on (R15). -/
def State.raise (e : ErrFlag) (s : State) : State :=
  match e with
  | .illegal => { s with block := { s.block with errIllegal := true } }
  | .cfglock => { s with block := { s.block with errCfglock := true } }
  | .cap => { s with block := { s.block with errCap := true } }
  | .phase => { s with block := { s.block with errPhase := true } }
  | .range => { s with block := { s.block with errRange := true } }

/-- The two bits of `STATE` (R21). -/
def Phase.code : Phase → BitVec 2
  | .idle => 0
  | .capture => 1
  | .done => 2

/-- The `ready` output of the sample port (R31). -/
def Block.ready (b : Block) : Bool := decide (b.phase = .capture)

/-- The `done` output toward the host (R31). -/
def Block.done (b : Block) : Bool := decide (b.phase = .done)

/-- The status word, as R29's pseudocode concatenates it. -/
def Block.status (b : Block) : Word :=
  (BitVec.ofBool b.errRange ++ BitVec.ofBool b.errPhase ++ BitVec.ofBool b.errCap
    ++ BitVec.ofBool b.errCfglock ++ BitVec.ofBool b.errIllegal ++ 0#4
    ++ BitVec.ofBool b.done ++ BitVec.ofBool b.ready ++ b.phase.code).setWidth 32

end Sys2Proof.Machine
end

