-- ==== Sys2Proof/Machine/Operands.lean ====
section
/-! DEFINITION. Fields, extensions and byte sequences of 00_scope.md R12-R14, the operands of
30_encoding.md R64 and the response forms of R63. -/

namespace Sys2Proof.Machine

/-- `sext_32` (R13). -/
def sext32 (b : Sample) : Word := b.signExtend 32

/-- `zext_32` of a byte (R13, R63). -/
def zext32 (b : Byte) : Word := b.setWidth 32

/-- `asr(v, n)` (R13). -/
def asr (v : Word) (n : Nat) : Word := v.sshiftRight n

/-- `sint16` (R13). -/
def sint16 (b : Sample) : Int := if b.toNat < 0x8000 then b.toNat else (b.toNat : Int) - 0x10000

/-- Two's-complement reading of a source word (R81). -/
def sint32 (w : Word) : Int := if w.toNat < 0x80000000 then w.toNat else (w.toNat : Int) - 0x100000000

/-- Bits 7:0 of a sample: its byte at the even payload offset (R43). -/
def sampleLow (b : Sample) : Byte := b.extractLsb' 0 8

/-- Bits 15:8 of a sample: its byte at the odd payload offset (R43). -/
def sampleHigh (b : Sample) : Byte := b.extractLsb' 8 8

/-- `le16` (R14). -/
def le16 (v : BitVec 16) : List Byte := [v.extractLsb' 0 8, v.extractLsb' 8 8]

/-- `le32` (R14). -/
def le32 (v : Word) : List Byte :=
  [v.extractLsb' 0 8, v.extractLsb' 8 8, v.extractLsb' 16 8, v.extractLsb' 24 8]

/-- `NARROW16(w) = w[31:16]` (40_acquisition.md R80). -/
def narrow16 (w : Word) : Sample := w.extractLsb' 16 16

/-- The exact product `RATE * SECONDS`, up to 64 bits (R14, R123). -/
def product (rate seconds : Word) : Nat := rate.toNat * seconds.toNat

/-- `PAYLOAD_LEN = 44 + 2 * VALID`, exact (R14, R108). -/
def payloadLen (b : Block) : Nat := 44 + 2 * b.valid.toNat

end Sys2Proof.Machine
end

