-- ==== Sys2Proof/Machine/Ops.lean ====
section
/-! DEFINITION. The named operations: the buffer's memory (10_state.md R27), the response (30_encoding.md
R63), the agents' offers (00_scope.md R7, R16, 20_memory.md R48) and reset (70_reset_and_hazards.md R170). -/

namespace Sys2Proof.Machine

/-- Addresses rise strictly. An unlisted byte has no value of its own, so no entry can equal one and
this is the whole canonical form. -/
def Memory.wf : Memory → Bool
  | [] => true
  | [_] => true
  | c :: d :: rest => decide (c.1 < d.1) && Memory.wf (d :: rest)

/-- The byte listed at an address; none where nothing was written since the last reset. -/
def Memory.lookup : Memory → Nat → Option Byte
  | [], _ => none
  | c :: rest, a => if c.1 = a then some c.2 else Memory.lookup rest a

/-- Write one byte, keeping addresses rising. -/
def Memory.store : Memory → Nat → Byte → Memory
  | [], a, v => [(a, v)]
  | c :: rest, a, v =>
    if a < c.1 then (a, v) :: c :: rest
    else if a = c.1 then (a, v) :: rest
    else c :: Memory.store rest a v

/-- Write entry `k`: low byte first (R43, DESIGN CHOICE, log entry 3). -/
def Memory.storeSample (m : Memory) (k : Nat) (v : Sample) : Memory :=
  Memory.store (Memory.store m (2 * k) (sampleLow v)) (2 * k + 1) (sampleHigh v)

/-- One byte of `BUF`: the byte written, or the free value where R36 leaves it unspecified. -/
def State.bufByte (s : State) (addr : Nat) : Byte :=
  match Memory.lookup s.block.buf addr with
  | some v => v
  | none => Config.bufUnspecified s.bufDraw addr

/-- `BUF[k]` (R15). -/
def State.bufEntry (s : State) (k : Nat) : Sample := s.bufByte (2 * k + 1) ++ s.bufByte (2 * k)

/-- `BUF[k] <- v` (R15). -/
def State.setBufEntry (k : Nat) (v : Sample) (s : State) : State :=
  { s with block := { s.block with buf := Memory.storeSample s.block.buf k v } }

/-- `respond v`: the host receives one response (R15, R63). -/
def State.respond (v : Word) (s : State) : State := { s with responses := s.responses ++ [v] }

/-- `state <- S` (R15). -/
def State.setPhase (p : Phase) (s : State) : State := { s with block := { s.block with phase := p } }

/-- A word that was offered and not accepted stays with the source, on the port (R16, R83). -/
def State.holdSample (w : Word) (s : State) : State := { s with samples := w :: s.samples }

/-- Every register, flag and phase takes the value of R36 and `BUF` keeps no defined contents (R170):
the next draw of unspecified bytes is in force. What the agents hold stays with them (R171). -/
def State.resetBlock (s : State) : State :=
  { s with block := Block.reset, bufDraw := s.bufDraw + 1 }

/-- The agent whose turn it is makes its offer: the offer and the state without it. None where no agent
has a turn or the agent has nothing to offer. -/
def State.takeOffer (s : State) : Option (Offer × State) :=
  match s.turns with
  | [] => none
  | .host :: rest =>
    match s.commands with
    | [] => none
    | c :: cs => some (.command c, { s with turns := rest, commands := cs })
  | .source :: rest =>
    match s.samples with
    | [] => none
    | w :: ws => some (.sample w, { s with turns := rest, samples := ws })
  | .reset :: rest => some (.reset, { s with turns := rest })

/-- No transaction takes place: the turn, if there is one, passes (DESIGN CHOICE, log entry 6). -/
def State.passTurn (s : State) : State := { s with turns := s.turns.tail }

/-- Place an offer with its turn before everything else that is pending. -/
def State.offerNext (o : Offer) (s : State) : State :=
  match o with
  | .command c => { s with turns := .host :: s.turns, commands := c :: s.commands }
  | .sample w => { s with turns := .source :: s.turns, samples := w :: s.samples }
  | .reset => { s with turns := .reset :: s.turns }

/-- Place an offer with its turn after everything else that is pending. -/
def State.offerLast (o : Offer) (s : State) : State :=
  match o with
  | .command c => { s with turns := s.turns ++ [.host], commands := s.commands ++ [c] }
  | .sample w => { s with turns := s.turns ++ [.source], samples := s.samples ++ [w] }
  | .reset => { s with turns := s.turns ++ [.reset] }

end Sys2Proof.Machine
end

