-- ==== Sys2Proof/Machine/Acquisition.lean ====
section
/-! DEFINITION. Acquisition and narrowing (40_acquisition.md). -/

namespace Sys2Proof.Machine

/-- The counters and the phase after an accepted word (R82); every right-hand side reads the values
before the transaction (R15). Every sum fits its register in the states of R32 (DEDUCED, log entry 9). -/
def State.countWord (s : State) : State :=
  { s with block := { s.block with
      valid := s.block.valid + 1
      rawb := s.block.rawb + 4
      phase := if s.block.valid.toNat + 1 = s.block.target.toNat then .done else s.block.phase } }

/-- `PUSH w` (R82), run with the word taken off the port. Outside `CAPTURE` it is not accepted and the
source keeps the word (R83, DESIGN CHOICE, log entry 5). Entry `VALID` exists in every state of R32; where it does not,
the store faults (DESIGN CHOICE, log entry 8). -/
def execPush (w : Word) (s : State) : Host.Outcome State Fault Refusal :=
  match s.block.phase with
  | .capture =>
    if s.block.valid.toNat < s.cap then
      .next (s.setBufEntry s.block.valid.toNat (narrow16 w)).countWord
    else .fault (.bufferIndex s.block.valid.toNat)
  | .idle => .next (s.holdSample w)
  | .done => .next (s.holdSample w)

/-- `NARROW w` (R85). -/
def execNarrow (w : Word) (s : State) : Host.Outcome State Fault Refusal :=
  .next (s.respond (sext32 (narrow16 w)))

end Sys2Proof.Machine
end

