-- ==== Sys2Proof/Machine/Control.lean ====
section
/-! DEFINITION. The control and configuration commands (42_control.md). -/

namespace Sys2Proof.Machine

/-- `NOP` (R120). -/
def execNop (_arg : Word) (s : State) : Host.Outcome State Fault Refusal :=
  .next (s.respond 0)

/-- `RATE <- r` (R15). -/
def State.setRate (r : Word) (s : State) : State := { s with block := { s.block with rate := r } }

/-- `SECONDS <- d` (R15). -/
def State.setSeconds (d : Word) (s : State) : State := { s with block := { s.block with seconds := d } }

/-- `SET_RATE r` (R121). -/
def execSetRate (r : Word) (s : State) : Host.Outcome State Fault Refusal :=
  match s.block.phase with
  | .idle => .next ((s.setRate r).respond 0)
  | .capture => .next ((s.raise .cfglock).respond 0)
  | .done => .next ((s.raise .cfglock).respond 0)

/-- `SET_SECONDS s` (R122). -/
def execSetSeconds (d : Word) (s : State) : Host.Outcome State Fault Refusal :=
  match s.block.phase with
  | .idle => .next ((s.setSeconds d).respond 0)
  | .capture => .next ((s.raise .cfglock).respond 0)
  | .done => .next ((s.raise .cfglock).respond 0)

/-- An accepted `START`: `TARGET <- p`, `VALID` and `RAWB` cleared, `BUF` kept (R123). `p` fits the
register in every legal build (DEDUCED, log entry 9). -/
def State.beginCapture (p : Nat) (s : State) : State :=
  { s with block := { s.block with
      target := BitVec.ofNat 32 p
      valid := 0
      rawb := 0
      phase := if p = 0 then .done else .capture } }

/-- `START` (R123): the product is exact before the comparison with `CAP`. -/
def execStart (_arg : Word) (s : State) : Host.Outcome State Fault Refusal :=
  match s.block.phase with
  | .idle =>
    if s.cap < product s.block.rate s.block.seconds then .next ((s.raise .cap).respond 0)
    else .next ((s.beginCapture (product s.block.rate s.block.seconds)).respond 0)
  | .capture => .next (s.respond 0)
  | .done => .next (s.respond 0)

/-- `RELEASE` (R124). -/
def execRelease (_arg : Word) (s : State) : Host.Outcome State Fault Refusal :=
  match s.block.phase with
  | .done => .next ((s.setPhase .idle).respond 0)
  | .idle => .next (s.respond 0)
  | .capture => .next (s.respond 0)

/-- `READ_STATUS` (R126). -/
def execReadStatus (_arg : Word) (s : State) : Host.Outcome State Fault Refusal :=
  .next (s.respond s.block.status)

/-- The register map (R30): none for selectors 7 and up. `PAYLOAD_LEN` and `CAP` fit 32 bits in the
states of R32 (DEDUCED, log entry 9). -/
def State.register (s : State) (sel : Word) : Option Word :=
  match sel.toNat with
  | 0 => some s.block.rate
  | 1 => some s.block.seconds
  | 2 => some s.block.target
  | 3 => some s.block.valid
  | 4 => some s.block.rawb
  | 5 => some (BitVec.ofNat 32 (payloadLen s.block))
  | 6 => some (BitVec.ofNat 32 s.cap)
  | _ => none

/-- `READ_REG sel` (R127). -/
def execReadReg (sel : Word) (s : State) : Host.Outcome State Fault Refusal :=
  match s.register sel with
  | some v => .next (s.respond v)
  | none => .next ((s.raise .illegal).respond 0)

/-- A command whose opcode is no row of the table (R128). -/
def execIllegal (s : State) : Host.Outcome State Fault Refusal :=
  .next ((s.raise .illegal).respond 0)

end Sys2Proof.Machine
end

