-- ==== Sys2Proof/Machine/Encoder.lean ====
section
/-! DEFINITION. The container encoder and the payload read-out (41_encoder.md). -/

namespace Sys2Proof.Machine

/-- `DATA_BYTES(n)` (R102). -/
def dataBytes (n : Word) : Word := BitVec.ofNat 32 (2 * n.toNat)

/-- `FILE_SIZE(n)` (R102). -/
def fileSize (n : Word) : Word := BitVec.ofNat 32 ((dataBytes n).toNat + 36)

/-- `BYTE_RATE(rate)` (R102). -/
def byteRate (rate : Word) : Word := BitVec.ofNat 32 (2 * rate.toNat)

/-- "RIFF", with the code points of R103 (PRESUMED, log entry 11). -/
def tagRiff : List Byte := [0x52, 0x49, 0x46, 0x46]

/-- "WAVE" (R103). -/
def tagWave : List Byte := [0x57, 0x41, 0x56, 0x45]

/-- "fmt " with its space (R103). -/
def tagFmt : List Byte := [0x66, 0x6D, 0x74, 0x20]

/-- "data" (R103). -/
def tagData : List Byte := [0x64, 0x61, 0x74, 0x61]

/-- `HDR(rate, n)` (R101): a pure function (R100), with the constants of R11. -/
def hdr (rate n : Word) : List Byte :=
  tagRiff ++ le32 (fileSize n) ++ tagWave ++ tagFmt ++ le32 16 ++ le16 1 ++ le16 1 ++ le32 rate
    ++ le32 (byteRate rate) ++ le16 2 ++ le16 16 ++ tagData ++ le32 (dataBytes n)

/-- `PayloadByte(a)` for `a` below the payload's end (R106); the header is computed from the current
`RATE` and `VALID` (R105). -/
def payloadByte (s : State) (a : Nat) : Byte :=
  if a < 44 then (hdr s.block.rate s.block.valid).getD a 0
  else if (a - 44) % 2 = 0 then sampleLow (s.bufEntry ((a - 44) / 2))
  else sampleHigh (s.bufEntry ((a - 44) / 2))

/-- `READ_PAYLOAD a` (R107): the phase is checked before the range (R154). An entry at or past `CAP`
does not exist; in every state of R32 the range check keeps below it (DESIGN CHOICE, log entry 8). -/
def execReadPayload (a : Word) (s : State) : Host.Outcome State Fault Refusal :=
  if s.block.phase ≠ .done then .next ((s.raise .phase).respond 0)
  else if payloadLen s.block ≤ a.toNat then .next ((s.raise .range).respond 0)
  else if a.toNat < 44 + 2 * s.cap then .next (s.respond (zext32 (payloadByte s a.toNat)))
  else .fault (.bufferIndex ((a.toNat - 44) / 2))

end Sys2Proof.Machine
end

