-- ==== Sys2Proof/Machine/Reset.lean ====
section
/-! DEFINITION. The reset input (70_reset_and_hazards.md R170). -/

namespace Sys2Proof.Machine

/-- Reset, in any phase, with no response (R170). -/
def execReset (s : State) : Host.Outcome State Fault Refusal :=
  .next s.resetBlock

end Sys2Proof.Machine
end

