-- ==== Sys2Proof/Machine/Dispatch.lean ====
section
/-! DEFINITION. One arm per instruction. -/

namespace Sys2Proof.Machine

def exec (i : Instr) (s : State) : Host.Outcome State Fault Refusal :=
  match i with
  | .nop arg => Sys2Proof.Machine.execNop arg s
  | .setRate rate => Sys2Proof.Machine.execSetRate rate s
  | .setSeconds seconds => Sys2Proof.Machine.execSetSeconds seconds s
  | .start arg => Sys2Proof.Machine.execStart arg s
  | .release arg => Sys2Proof.Machine.execRelease arg s
  | .readStatus arg => Sys2Proof.Machine.execReadStatus arg s
  | .readReg sel => Sys2Proof.Machine.execReadReg sel s
  | .readPayload addr => Sys2Proof.Machine.execReadPayload addr s
  | .narrow word => Sys2Proof.Machine.execNarrow word s
  | .push word => Sys2Proof.Machine.execPush word s
  | .reset => Sys2Proof.Machine.execReset s

end Sys2Proof.Machine
end

