-- ==== Sys2Proof/Machine/Step.lean ====
section
/-! DEFINITION. One step: the agent whose turn it is makes its offer, the offer is decoded and runs
(20_memory.md R48). -/

namespace Sys2Proof.Machine

/-- What an offer does to the state from which it was taken: the instruction it decodes to, or R128's
effect where its opcode is no row of the table (DESIGN CHOICE, log entry 12). -/
def runOffer (o : Offer) (s : State) : Host.Outcome State Fault Refusal :=
  match decode o with
  | .ok i => exec i s
  | .error (.illegalOpcode _) => execIllegal s

/-- One turn of the total order. Where nothing is offered no transaction takes place and the block's
state stays (R16, R35, DESIGN CHOICE, log entry 6). -/
def step (s : State) : Host.Outcome State Fault Refusal :=
  match s.takeOffer with
  | some (o, s') => runOffer o s'
  | none => .next s.passTurn

/-- `s` with one instruction offered on its input, its turn next (DESIGN CHOICE, log entry 4). A width that no input
has leaves `s` as it is. -/
def State.withFetchWord (s : State) (nbits w : Nat) : State :=
  match offerOfTable nbits w with
  | some o => s.offerNext o
  | none => s

end Sys2Proof.Machine
end

