-- ==== Sys2Proof/WellFormed.lean ====
section
/-! DEFINITION. What may be written: operands of program lines (30_encoding.md R68) and build
parameters (00_scope.md R8). -/

namespace Sys2Proof

/-- Every operand value of every transaction is legal: no operand bit is reserved, and every sample
word is a `PUSH` (R64, R66). -/
def Instr.wellFormed : Instr → Bool
  | .nop _ => true
  | .setRate _ => true
  | .setSeconds _ => true
  | .start _ => true
  | .release _ => true
  | .readStatus _ => true
  | .readReg _ => true
  | .readPayload _ => true
  | .narrow _ => true
  | .push _ => true
  | .reset => true

/-- `operand ::= decimal | "0x" hex`, a u32 value (R68). -/
def operandOk (n : Nat) : Bool := decide (n < 2 ^ 32)

/-- The opcode value of `CMD n, a` fits the 8 bits of `op` (R61). R69 writes `n[7:0]` and states no bound
for `n`: that a line with `n` of 256 or more is refused, not cut to its low 8 bits, is the model's
(DESIGN CHOICE, log entry 16). -/
def opcodeOk (n : Nat) : Bool := decide (n < 2 ^ 8)

/-- A line the assembler takes (R68, R69). `PUSHBLK` with no words is taken (DESIGN CHOICE, log entry 17);
the bound on the length of `READALL` is that of the addresses it reads (DESIGN CHOICE, log entry 13). -/
def Line.wellFormed : Line → Bool
  | .command _ none => true
  | .command _ (some n) => operandOk n
  | .push n => operandOk n
  | .reset => true
  | .comment => true
  | .cmd n a => opcodeOk n && operandOk a
  | .config r s => operandOk r && operandOk s
  | .capture r s => operandOk r && operandOk s
  | .pushBlock ws => ws.all operandOk
  | .waitDone _ => true
  | .readHdr => true
  | .readAll len => decide (len ≤ 2 ^ 32)

end Sys2Proof
end

