-- ==== Sys2Proof/Machine/Program.lean ====
section
/-! DEFINITION. Programs: lines, pseudo-instructions and how a program is offered to the block
(30_encoding.md R68-R70, DESIGN CHOICE, log entry 13). -/

namespace Sys2Proof.Machine

/-- The instruction a mnemonic and an operand name (R65). -/
def Mnemonic.instr (m : Mnemonic) (arg : Word) : Instr :=
  match m with
  | .nop => .nop arg
  | .setRate => .setRate arg
  | .setSeconds => .setSeconds arg
  | .start => .start arg
  | .release => .release arg
  | .readStatus => .readStatus arg
  | .readReg => .readReg arg
  | .readPayload => .readPayload arg
  | .narrow => .narrow arg

/-- A command without an operand has `arg = 0` (R68). -/
def commandOffer (m : Mnemonic) (operand : Option Nat) : Offer :=
  encode (Mnemonic.instr m (BitVec.ofNat 32 (operand.getD 0)))

/-- `READ_PAYLOAD 0 ; ... ; READ_PAYLOAD len-1` (R69). -/
def readBytes (len : Nat) : List Offer :=
  (List.range len).map (fun a => commandOffer .readPayload (some a))

/-- The offers a line stands for, with the expansions of R69. `PUSHBLK` with no words stands for none
(DESIGN CHOICE, log entry 17). The assembler refuses a `CMD` whose opcode value is above 255 before it
is expanded here (DESIGN CHOICE, log entry 16). -/
def Line.offers : Line → List Offer
  | .command m operand => [commandOffer m operand]
  | .push w => [encode (.push (BitVec.ofNat 32 w))]
  | .reset => [encode .reset]
  | .comment => []
  | .cmd n a => [.command (commandWord (BitVec.ofNat 8 n) (BitVec.ofNat 32 a))]
  | .config r d => [commandOffer .setRate (some r), commandOffer .setSeconds (some d)]
  | .capture r d =>
    [commandOffer .setRate (some r), commandOffer .setSeconds (some d), commandOffer .start none]
  | .pushBlock ws => ws.map (fun w => encode (.push (BitVec.ofNat 32 w)))
  | .waitDone polls => List.replicate polls (commandOffer .readStatus none)
  | .readHdr => readBytes 44
  | .readAll len => commandOffer .readReg (some 5) :: readBytes len

/-- The assembler: none where a line is refused (R68). -/
def assemble : List Line → Option (List Offer)
  | [] => some []
  | l :: rest =>
    match l.wellFormed, assemble rest with
    | true, some os => some (Line.offers l ++ os)
    | _, _ => none

/-- A program's lines are offered in the order written (R68). -/
def State.withProgram (s : State) : List Offer → State
  | [] => s
  | o :: rest => (s.offerLast o).withProgram rest

end Sys2Proof.Machine
end

