-- ==== Sys2Proof/Safety.lean ====
section
/-! DEFINITION. What claims rest on: the invariant of 10_state.md R32, a state in which no error was
recorded, the bytes the host reads, and what a run of instructions gives. -/

namespace Sys2Proof

/-- The host issued it: a format-C command, not a push or the reset (R60). -/
def Instr.fromHost : Instr → Bool
  | .nop _ => true
  | .setRate _ => true
  | .setSeconds _ => true
  | .start _ => true
  | .release _ => true
  | .readStatus _ => true
  | .readReg _ => true
  | .readPayload _ => true
  | .narrow _ => true
  | .push _ => false
  | .reset => false

end Sys2Proof

namespace Sys2Proof.Machine

/-- R32, with the facts of R8, R24, R26, R49 and the memory's form that every transaction keeps. -/
structure State.Inv (s : State) : Prop where
  /-- The build's capacity is legal (R8). -/
  capLegal : Config.capLegal s.cap
  /-- R32 item 1. -/
  validLeTarget : s.block.valid.toNat ≤ s.block.target.toNat
  /-- R32 item 1, R24. -/
  targetLeCap : s.block.target.toNat ≤ s.cap
  /-- R32 item 2. -/
  rawbCounts : s.block.rawb.toNat = 4 * s.block.valid.toNat
  /-- R32 item 3. -/
  captureRoom : s.block.phase = .capture → s.block.valid.toNat < s.block.target.toNat
  /-- R32 item 4. -/
  doneFull : s.block.phase = .done → s.block.valid = s.block.target
  /-- `TARGET` is the product of the locked configuration outside `IDLE` (R24, R121). -/
  targetLocked : s.block.phase ≠ .idle →
    s.block.target.toNat = product s.block.rate s.block.seconds
  /-- R32 item 5, as far as one state shows it: both bytes of every entry below `VALID` were written
  since the last reset. -/
  written : ∀ a, a < 2 * s.block.valid.toNat → (Memory.lookup s.block.buf a).isSome = true
  /-- The buffer's memory is canonical. -/
  bufWf : Memory.wf s.block.buf = true
  /-- The buffer lists no byte at or past entry `CAP` (R27). -/
  bufInRange : ∀ a, (Memory.lookup s.block.buf a).isSome = true → a < 2 * s.cap

/-- No error flag is set: the premise of a claim about a host that keeps the protocol (D5, D15, U12). -/
def State.noError (s : State) : Bool :=
  !s.block.errIllegal && !s.block.errCfglock && !s.block.errCap && !s.block.errPhase
    && !s.block.errRange

/-- A safe state: it meets R32 and records no error. -/
def State.Safe (s : State) : Prop := s.Inv ∧ s.noError = true

/-- The document's UploadPayload (R17, R108): the header followed by the samples, each low byte first. -/
def State.uploadPayload (s : State) : List Byte :=
  hdr s.block.rate s.block.valid
    ++ (List.range s.block.valid.toNat).flatMap
        (fun k => [sampleLow (s.bufEntry k), sampleHigh (s.bufEntry k)])

/-- The instructions of a list, one after the other; none where one of them stops. -/
def execAll : List Instr → State → Option State
  | [], s => some s
  | i :: rest, s =>
    match exec i s with
    | .next t => execAll rest t
    | .fault _ => none
    | .refused _ => none

/-- `k` turns; none where one of them stops. -/
def stepAll : Nat → State → Option State
  | 0, s => some s
  | k + 1, s =>
    match step s with
    | .next t => stepAll k t
    | .fault _ => none
    | .refused _ => none

/-- A little-endian number (R42). -/
def leNat : List Byte → Nat
  | [] => 0
  | b :: rest => b.toNat + 256 * leNat rest

end Sys2Proof.Machine
end

