-- ==== Sys2Proof/Certificates/Slice0/Obligations.lean ====
section
/-! DEFINITION. The statements about the model, each citing the rule of spec/ it formalises. The spec's
`respond v` (00_scope.md R15) reads `responses ++ [v]` here, the host's list of responses (log entry 7),
and `BUF[k]` reads `bufEntry k` (log entry 3). -/

section

open Sys2Proof Sys2Proof.Machine

/-! ## Encoding (30_encoding.md) -/

/-- Decoding the offer that encodes an instruction gives that instruction, whatever its operand. -/
def Obligations.DecodeOfEncodeIsIdentity : Prop :=
  ∀ i : Instr, decode (encode i) = .ok i

/-- Where an offer decodes to an instruction, encoding that instruction gives the offer back: no bit of
an encoding is dropped and no two words share an instruction. For `NOP`, `START`, `RELEASE` and
`READ_STATUS` that is the model's choice (log entry 10): their `arg` is ignored (R64), so that
`0x00_FFFFFFFF` is also a `NOP` (R120), and the model's instruction still carries it. That it has no effect
is `IgnoredOperandsHaveNoEffect`. -/
def Obligations.EncodeOfDecodeIsIdentity : Prop :=
  ∀ (o : Offer) (i : Instr), decode o = .ok i → encode i = o

/-- R65 and R66: the opcode in bits 39:32 selects the instruction, `0x09 .. 0xFF` is illegal, and every
word on the sample port is a `PUSH`. -/
def Obligations.OpcodeMapIsComplete : Prop :=
  (∀ c : CommandWord,
    (c.extractLsb' 32 8 = 0x00#8 → decode (.command c) = .ok (.nop (c.extractLsb' 0 32))) ∧
    (c.extractLsb' 32 8 = 0x01#8 → decode (.command c) = .ok (.setRate (c.extractLsb' 0 32))) ∧
    (c.extractLsb' 32 8 = 0x02#8 → decode (.command c) = .ok (.setSeconds (c.extractLsb' 0 32))) ∧
    (c.extractLsb' 32 8 = 0x03#8 → decode (.command c) = .ok (.start (c.extractLsb' 0 32))) ∧
    (c.extractLsb' 32 8 = 0x04#8 → decode (.command c) = .ok (.release (c.extractLsb' 0 32))) ∧
    (c.extractLsb' 32 8 = 0x05#8 → decode (.command c) = .ok (.readStatus (c.extractLsb' 0 32))) ∧
    (c.extractLsb' 32 8 = 0x06#8 → decode (.command c) = .ok (.readReg (c.extractLsb' 0 32))) ∧
    (c.extractLsb' 32 8 = 0x07#8 → decode (.command c) = .ok (.readPayload (c.extractLsb' 0 32))) ∧
    (c.extractLsb' 32 8 = 0x08#8 → decode (.command c) = .ok (.narrow (c.extractLsb' 0 32))) ∧
    (9 ≤ (c.extractLsb' 32 8).toNat →
      decode (.command c) = .error (.illegalOpcode (c.extractLsb' 32 8)))) ∧
  (∀ w : Word, decode (.sample w) = .ok (.push w)) ∧
  decode .reset = .ok .reset

/-- R70: a command word is `op` followed by `arg`, and the words the rule writes out encode and decode as
the instructions they stand for. -/
def Obligations.WordsOfTheSpecDecode : Prop :=
  (∀ (op : BitVec 8) (arg : Word),
    (commandWord op arg).toNat = op.toNat * 2 ^ 32 + arg.toNat) ∧
  encode (.setRate 16000) = .command 0x0100003E80#40 ∧
  encode (.setSeconds 3) = .command 0x0200000003#40 ∧
  encode (.start 0) = .command 0x0300000000#40 ∧
  encode (.readPayload 44) = .command 0x070000002C#40 ∧
  encode (.narrow 0xFFFF0000) = .command 0x08FFFF0000#40 ∧
  encode (.push 0xFFFF0000) = .sample 0xFFFF0000#32 ∧
  decode (.command 0x0100003E80#40) = .ok (.setRate 16000) ∧
  decode (.command 0x0200000003#40) = .ok (.setSeconds 3) ∧
  decode (.command 0x0300000000#40) = .ok (.start 0) ∧
  decode (.command 0x070000002C#40) = .ok (.readPayload 44) ∧
  decode (.command 0x08FFFF0000#40) = .ok (.narrow 0xFFFF0000) ∧
  decode (.sample 0xFFFF0000#32) = .ok (.push 0xFFFF0000)

/-! ## Control and configuration commands (42_control.md) -/

/-- R120: `NOP` responds 0 and changes nothing, in every phase and for every ignored operand. -/
def Obligations.NopRespondsZero : Prop :=
  ∀ (arg : Word) (s : State),
    decode (.command (commandWord 0x00 arg)) = .ok (.nop arg) ∧
    exec (.nop arg) s = .next { s with responses := s.responses ++ [0] }

/-- R121: `SET_RATE` writes `RATE` in `IDLE` and otherwise sets `ERR_CFGLOCK`; it responds 0. -/
def Obligations.SetRateWritesOnlyInIdle : Prop :=
  ∀ (r : Word) (s : State),
    decode (.command (commandWord 0x01 r)) = .ok (.setRate r) ∧
    (s.block.phase = .idle →
      exec (.setRate r) s =
        .next { s with block := { s.block with rate := r }, responses := s.responses ++ [0] }) ∧
    (s.block.phase ≠ .idle →
      exec (.setRate r) s =
        .next { s with block := { s.block with errCfglock := true },
                       responses := s.responses ++ [0] })

/-- R122: `SET_SECONDS` writes `SECONDS` in `IDLE` and otherwise sets `ERR_CFGLOCK`; it responds 0. -/
def Obligations.SetSecondsWritesOnlyInIdle : Prop :=
  ∀ (d : Word) (s : State),
    decode (.command (commandWord 0x02 d)) = .ok (.setSeconds d) ∧
    (s.block.phase = .idle →
      exec (.setSeconds d) s =
        .next { s with block := { s.block with seconds := d }, responses := s.responses ++ [0] }) ∧
    (s.block.phase ≠ .idle →
      exec (.setSeconds d) s =
        .next { s with block := { s.block with errCfglock := true },
                       responses := s.responses ++ [0] })

/-- R123: `START` compares the exact product with `CAP`; a larger product sets `ERR_CAP`, product 0
completes at once, any other begins a capture, and outside `IDLE` it is ignored without a flag. The
target register holds the product exactly for every legal build. -/
def Obligations.StartBeginsOneCapture : Prop :=
  ∀ (arg : Word) (s : State),
    decode (.command (commandWord 0x03 arg)) = .ok (.start arg) ∧
    (s.block.phase = .idle → s.cap < s.block.rate.toNat * s.block.seconds.toNat →
      exec (.start arg) s =
        .next { s with block := { s.block with errCap := true }, responses := s.responses ++ [0] }) ∧
    (s.block.phase = .idle → s.block.rate.toNat * s.block.seconds.toNat = 0 →
      exec (.start arg) s =
        .next { s with block := { s.block with phase := .done, target := 0, valid := 0, rawb := 0 },
                       responses := s.responses ++ [0] }) ∧
    (s.block.phase = .idle → Config.capLegal s.cap →
      0 < s.block.rate.toNat * s.block.seconds.toNat →
      s.block.rate.toNat * s.block.seconds.toNat ≤ s.cap →
      ∃ target : Word, target.toNat = s.block.rate.toNat * s.block.seconds.toNat ∧
        exec (.start arg) s =
          .next { s with block := { s.block with phase := .capture, target := target, valid := 0,
                                                 rawb := 0 },
                         responses := s.responses ++ [0] }) ∧
    (s.block.phase ≠ .idle →
      exec (.start arg) s = .next { s with responses := s.responses ++ [0] })

/-- R124: `RELEASE` moves `DONE` to `IDLE` and keeps the counters and the buffer; elsewhere it is
ignored without a flag. -/
def Obligations.ReleaseDiscardsPayload : Prop :=
  ∀ (arg : Word) (s : State),
    decode (.command (commandWord 0x04 arg)) = .ok (.release arg) ∧
    (s.block.phase = .done →
      exec (.release arg) s =
        .next { s with block := { s.block with phase := .idle }, responses := s.responses ++ [0] }) ∧
    (s.block.phase ≠ .done →
      exec (.release arg) s = .next { s with responses := s.responses ++ [0] })

/-- R126: `READ_STATUS` responds the status word of R29, field by field, and changes nothing; with no
error recorded it is 0, 5 or 10. -/
def Obligations.ReadStatusRespondsStatusWord : Prop :=
  ∀ (arg : Word) (s : State), ∃ w : Word,
    decode (.command (commandWord 0x05 arg)) = .ok (.readStatus arg) ∧
    exec (.readStatus arg) s = .next { s with responses := s.responses ++ [w] } ∧
    w.extractLsb' 0 2 =
      (match s.block.phase with
       | .idle => 0#2
       | .capture => 1#2
       | .done => 2#2) ∧
    w.getLsbD 2 = decide (s.block.phase = .capture) ∧
    w.getLsbD 3 = decide (s.block.phase = .done) ∧
    w.extractLsb' 4 4 = 0#4 ∧
    w.getLsbD 8 = s.block.errIllegal ∧
    w.getLsbD 9 = s.block.errCfglock ∧
    w.getLsbD 10 = s.block.errCap ∧
    w.getLsbD 11 = s.block.errPhase ∧
    w.getLsbD 12 = s.block.errRange ∧
    w.extractLsb' 13 19 = 0#19 ∧
    (s.noError = true →
      w = (match s.block.phase with
           | .idle => 0x00000000#32
           | .capture => 0x00000005#32
           | .done => 0x0000000A#32))

/-- R127: `READ_REG` responds the register its selector names; selectors 7 and up set `ERR_ILLEGAL` and
respond 0. `PAYLOAD_LEN` and `CAP` are exact where `VALID` and `CAP` are in the range of R8. -/
def Obligations.ReadRegRespondsRegister : Prop :=
  ∀ (sel : Word) (s : State),
    decode (.command (commandWord 0x06 sel)) = .ok (.readReg sel) ∧
    (sel = 0 → exec (.readReg sel) s = .next { s with responses := s.responses ++ [s.block.rate] }) ∧
    (sel = 1 → exec (.readReg sel) s = .next { s with responses := s.responses ++ [s.block.seconds] }) ∧
    (sel = 2 → exec (.readReg sel) s = .next { s with responses := s.responses ++ [s.block.target] }) ∧
    (sel = 3 → exec (.readReg sel) s = .next { s with responses := s.responses ++ [s.block.valid] }) ∧
    (sel = 4 → exec (.readReg sel) s = .next { s with responses := s.responses ++ [s.block.rawb] }) ∧
    (sel = 5 → s.block.valid.toNat ≤ Config.capMax →
      ∃ v : Word, v.toNat = 44 + 2 * s.block.valid.toNat ∧
        exec (.readReg sel) s = .next { s with responses := s.responses ++ [v] }) ∧
    (sel = 6 → Config.capLegal s.cap →
      ∃ v : Word, v.toNat = s.cap ∧
        exec (.readReg sel) s = .next { s with responses := s.responses ++ [v] }) ∧
    (7 ≤ sel.toNat →
      exec (.readReg sel) s =
        .next { s with block := { s.block with errIllegal := true }, responses := s.responses ++ [0] })

/-- R128: a command whose opcode is `0x09 .. 0xFF` sets `ERR_ILLEGAL`, responds 0 and changes nothing
else, in any phase. -/
def Obligations.IllegalOpcodeSetsFlag : Prop :=
  ∀ (c : CommandWord) (cs : List CommandWord) (ts : List Agent) (s : State),
    s.turns = .host :: ts → s.commands = c :: cs → 9 ≤ (c.extractLsb' 32 8).toNat →
    step s =
      .next { s with turns := ts, commands := cs,
                     block := { s.block with errIllegal := true },
                     responses := s.responses ++ [0] }

/-- R64: the commands without an operand do the same for every value of the ignored bits. -/
def Obligations.IgnoredOperandsHaveNoEffect : Prop :=
  ∀ (a b : Word) (s : State),
    exec (.nop a) s = exec (.nop b) s ∧
    exec (.start a) s = exec (.start b) s ∧
    exec (.release a) s = exec (.release b) s ∧
    exec (.readStatus a) s = exec (.readStatus b) s

/-! ## Acquisition and narrowing (40_acquisition.md) -/

/-- R85: `NARROW` responds the sign-extended upper half, which is the arithmetic shift by 16, and
changes nothing. -/
def Obligations.NarrowRespondsSignExtendedSample : Prop :=
  ∀ (w : Word) (s : State),
    decode (.command (commandWord 0x08 w)) = .ok (.narrow w) ∧
    exec (.narrow w) s =
      .next { s with responses := s.responses ++ [(w.extractLsb' 16 16).signExtend 32] } ∧
    (w.extractLsb' 16 16).signExtend 32 = w.sshiftRight 16

/-- R81: the four identities of the narrowing. -/
def Obligations.NarrowingIdentities : Prop :=
  ∀ w : Word,
    (asr w 16).extractLsb' 0 16 = w.extractLsb' 16 16 ∧
    sext32 (narrow16 w) = asr w 16 ∧
    sint16 (narrow16 w) = (sint32 w).fdiv 65536 ∧
    -32768 ≤ sint16 (narrow16 w) ∧ sint16 (narrow16 w) ≤ 32767 ∧
    (w.getLsbD 31 = true → sint16 (narrow16 w) < 0) ∧
    sint16 (narrow16 0xFFFF0000) = -1

/-- R82: an accepted `PUSH` stores the upper half at entry `VALID`, counts the word and its four bytes,
and completes the capture exactly when the count reaches `TARGET`; nothing else changes. -/
def Obligations.PushStoresNarrowedSample : Prop :=
  ∀ (w : Word) (s : State), s.Inv → s.block.phase = .capture →
    decode (.sample w) = .ok (.push w) ∧
    ∃ t, exec (.push w) s = .next t ∧
      t.bufEntry s.block.valid.toNat = w.extractLsb' 16 16 ∧
      (∀ k, k ≠ s.block.valid.toNat → t.bufEntry k = s.bufEntry k) ∧
      t.block.valid.toNat = s.block.valid.toNat + 1 ∧
      t.block.rawb.toNat = s.block.rawb.toNat + 4 ∧
      t.block.phase =
        (if s.block.valid.toNat + 1 = s.block.target.toNat then .done else .capture) ∧
      t = { s with block := { s.block with phase := t.block.phase, valid := t.block.valid,
                                           rawb := t.block.rawb, buf := t.block.buf } }

/-- R83: at the source's turn its word is taken exactly when `ready` is 1. Otherwise the source keeps it
and no state of the block changes. R16 calls that a transaction with no step: that `step` then answers a
next state in which the turn has passed is the model's choice (log entry 5). An accepted word leaves
`ready` at 1 exactly while the target is not reached. -/
def Obligations.PushAcceptedExactlyWhenReady : Prop :=
  ∀ (w : Word) (ws : List Word) (ts : List Agent) (s : State),
    s.turns = .source :: ts → s.samples = w :: ws →
    (s.block.ready = false → step s = .next { s with turns := ts }) ∧
    (s.block.ready = true → s.Inv →
      ∃ t, step s = .next t ∧ t.samples = ws ∧ t.turns = ts ∧
        t.block.valid.toNat = s.block.valid.toNat + 1 ∧
        (t.block.ready = true ↔ s.block.valid.toNat + 1 < s.block.target.toNat))

/-- R80: words that agree in their upper halves are stored and narrowed alike; the padding half of a
word reaches neither the block nor the host. -/
def Obligations.PaddingHalfIsIgnored : Prop :=
  ∀ (w v : Word) (s : State), w.extractLsb' 16 16 = v.extractLsb' 16 16 →
    (s.block.phase = .capture → exec (.push w) s = exec (.push v) s) ∧
    exec (.narrow w) s = exec (.narrow v) s

/-- R86: within a capture any words up to the target are taken one by one, the `k`-th stored at its own
entry, and the phase is `DONE` exactly when the target is reached. -/
def Obligations.CaptureTakesExactlyTarget : Prop :=
  ∀ (ws : List Word) (s : State), s.Inv → s.block.phase = .capture →
    s.block.valid.toNat + ws.length ≤ s.block.target.toNat →
    ∃ t, execAll (ws.map Instr.push) s = some t ∧
      t.block.valid.toNat = s.block.valid.toNat + ws.length ∧
      t.block.rawb.toNat = 4 * t.block.valid.toNat ∧
      t.block.target = s.block.target ∧
      (t.block.phase = .done ↔ s.block.valid.toNat + ws.length = s.block.target.toNat) ∧
      (t.block.phase = .capture ↔ s.block.valid.toNat + ws.length < s.block.target.toNat) ∧
      (∀ k w, ws[k]? = some w → t.bufEntry (s.block.valid.toNat + k) = w.extractLsb' 16 16) ∧
      (∀ k, k < s.block.valid.toNat → t.bufEntry k = s.bufEntry k)

/-- R174: configure, start and deliver the words of one capture, and the payload the host can read is the
header of that rate and count followed by the upper half of every word, low byte first. -/
def Obligations.WholeCaptureYieldsPayload : Prop :=
  ∀ (r d arg : Word) (ws : List Word) (s : State), s.Inv → s.block.phase = .idle →
    r.toNat * d.toNat ≤ s.cap → ws.length = r.toNat * d.toNat →
    ∃ t, execAll ([.setRate r, .setSeconds d, .start arg] ++ ws.map Instr.push) s = some t ∧
      t.block.phase = .done ∧
      t.responses = s.responses ++ [0, 0, 0] ∧
      t.uploadPayload =
        hdr r (BitVec.ofNat 32 ws.length)
          ++ ws.flatMap (fun w => [w.extractLsb' 16 8, w.extractLsb' 24 8])

/-! ## The container encoder and the read-out (41_encoder.md) -/

/-- R101 with the tag bytes of R103: the 44 bytes of the header, in order. -/
def Obligations.HeaderByteLayout : Prop :=
  ∀ rate n : Word, ∃ fs br ds : Word,
    ds.toNat = 2 * n.toNat % 2 ^ 32 ∧
    fs.toNat = (ds.toNat + 36) % 2 ^ 32 ∧
    br.toNat = 2 * rate.toNat % 2 ^ 32 ∧
    hdr rate n =
      [0x52, 0x49, 0x46, 0x46,
       fs.extractLsb' 0 8, fs.extractLsb' 8 8, fs.extractLsb' 16 8, fs.extractLsb' 24 8,
       0x57, 0x41, 0x56, 0x45,
       0x66, 0x6D, 0x74, 0x20,
       16, 0, 0, 0, 1, 0, 1, 0,
       rate.extractLsb' 0 8, rate.extractLsb' 8 8, rate.extractLsb' 16 8, rate.extractLsb' 24 8,
       br.extractLsb' 0 8, br.extractLsb' 8 8, br.extractLsb' 16 8, br.extractLsb' 24 8,
       2, 0, 16, 0,
       0x64, 0x61, 0x74, 0x61,
       ds.extractLsb' 0 8, ds.extractLsb' 8 8, ds.extractLsb' 16 8, ds.extractLsb' 24 8]

/-- R102: the size fields read little-endian from the header are the formulas modulo 2^32; the sizes do
not wrap for a count of the block, and the byte rate is exact exactly below 2^31. -/
def Obligations.HeaderSizeArithmetic : Prop :=
  ∀ rate n : Word,
    leNat (((hdr rate n).drop 40).take 4) = 2 * n.toNat % 2 ^ 32 ∧
    leNat (((hdr rate n).drop 4).take 4) = (2 * n.toNat % 2 ^ 32 + 36) % 2 ^ 32 ∧
    leNat (((hdr rate n).drop 28).take 4) = 2 * rate.toNat % 2 ^ 32 ∧
    leNat (((hdr rate n).drop 32).take 2) = 2 ∧
    (n.toNat ≤ Config.capMax →
      leNat (((hdr rate n).drop 40).take 4) = 2 * n.toNat ∧
      leNat (((hdr rate n).drop 4).take 4) = 2 * n.toNat + 36) ∧
    (leNat (((hdr rate n).drop 28).take 4) = 2 * rate.toNat ↔ rate.toNat < 2 ^ 31)

/-- R104: the header is 44 bytes; every multi-byte field decodes to the value supplied; the header bytes
of the payload depend on `RATE` and `VALID` alone; a count of 0 gives sizes 0 and 36; the reference
configuration gives the document's numbers. -/
def Obligations.HeaderProperties : Prop :=
  (∀ rate n : Word, (hdr rate n).length = 44) ∧
  (∀ rate n : Word, rate.toNat < 2 ^ 31 → n.toNat ≤ Config.capMax →
    leNat (((hdr rate n).drop 4).take 4) = 2 * n.toNat + 36 ∧
    leNat (((hdr rate n).drop 16).take 4) = 16 ∧
    leNat (((hdr rate n).drop 20).take 2) = 1 ∧
    leNat (((hdr rate n).drop 22).take 2) = 1 ∧
    leNat (((hdr rate n).drop 24).take 4) = rate.toNat ∧
    leNat (((hdr rate n).drop 28).take 4) = 2 * rate.toNat ∧
    leNat (((hdr rate n).drop 32).take 2) = 2 ∧
    leNat (((hdr rate n).drop 34).take 2) = 16 ∧
    leNat (((hdr rate n).drop 40).take 4) = 2 * n.toNat) ∧
  (∀ s t : State, s.block.rate = t.block.rate → s.block.valid = t.block.valid →
    ∀ a, a < 44 → payloadByte s a = payloadByte t a) ∧
  (∀ rate : Word,
    leNat (((hdr rate 0).drop 40).take 4) = 0 ∧ leNat (((hdr rate 0).drop 4).take 4) = 36) ∧
  (leNat (((hdr 16000 48000).drop 28).take 4) = 32000 ∧
   leNat (((hdr 16000 48000).drop 32).take 2) = 2 ∧
   leNat (((hdr 16000 48000).drop 40).take 4) = 96000 ∧
   leNat (((hdr 16000 48000).drop 4).take 4) = 96036 ∧
   (∀ s : State, s.block.valid = 48000 → payloadLen s.block = 96044))

/-- The header describes its payload: within the counts of the block, two headers are equal only for the
same rate and the same count. -/
def Obligations.HeaderDeterminesRateAndCount : Prop :=
  ∀ rate n rate' n' : Word, n.toNat ≤ Config.capMax → n'.toNat ≤ Config.capMax →
    hdr rate n = hdr rate' n' → rate = rate' ∧ n = n'

/-- R106: `PayloadByte` is the header's byte below 44, and above it the low then the high byte of each
sample. -/
def Obligations.PayloadByteMap : Prop :=
  ∀ s : State,
    (∀ a, a < 44 → (hdr s.block.rate s.block.valid)[a]? = some (payloadByte s a)) ∧
    (∀ k, k < s.block.valid.toNat →
      payloadByte s (44 + 2 * k) = (s.bufEntry k).extractLsb' 0 8 ∧
      payloadByte s (45 + 2 * k) = (s.bufEntry k).extractLsb' 8 8)

/-- R107: `READ_PAYLOAD` checks the phase before the range and responds the byte zero-extended. `VALID`
is at most `CAP`, as R32 keeps it. -/
def Obligations.ReadPayloadRespondsByte : Prop :=
  ∀ (a : Word) (s : State), s.block.valid.toNat ≤ s.cap →
    decode (.command (commandWord 0x07 a)) = .ok (.readPayload a) ∧
    (s.block.phase ≠ .done →
      exec (.readPayload a) s =
        .next { s with block := { s.block with errPhase := true }, responses := s.responses ++ [0] }) ∧
    (s.block.phase = .done → 44 + 2 * s.block.valid.toNat ≤ a.toNat →
      exec (.readPayload a) s =
        .next { s with block := { s.block with errRange := true }, responses := s.responses ++ [0] }) ∧
    (s.block.phase = .done → a.toNat < 44 + 2 * s.block.valid.toNat →
      exec (.readPayload a) s =
        .next { s with responses := s.responses ++ [(payloadByte s a.toNat).setWidth 32] })

/-- R108: reading `READ_PAYLOAD 0 .. PAYLOAD_LEN - 1` in `DONE` yields, in order, exactly the
UploadPayload of `44 + 2 * VALID` bytes, and changes nothing else. -/
def Obligations.ReadOutYieldsUploadPayload : Prop :=
  ∀ s : State, s.Inv → s.block.phase = .done →
    s.uploadPayload.length = 44 + 2 * s.block.valid.toNat ∧
    (∃ v : Word, v.toNat = 44 + 2 * s.block.valid.toNat ∧
      exec (.readReg 5) s = .next { s with responses := s.responses ++ [v] }) ∧
    execAll ((List.range (44 + 2 * s.block.valid.toNat)).map
        (fun a => Instr.readPayload (BitVec.ofNat 32 a))) s =
      some { s with responses := s.responses ++ s.uploadPayload.map (fun b => b.setWidth 32) }

/-! ## Reset (70_reset_and_hazards.md) -/

/-- R170 with R36: reset gives every register, flag and phase its reset value in any phase, leaves no
byte of `BUF` defined, gives no response, and leaves what the agents hold with them. -/
def Obligations.ResetSetsEveryRegister : Prop :=
  ∀ s : State, ∃ t, exec .reset s = .next t ∧
    t.block.phase = .idle ∧ t.block.rate = 0 ∧ t.block.seconds = 0 ∧ t.block.target = 0 ∧
    t.block.valid = 0 ∧ t.block.rawb = 0 ∧
    t.block.errIllegal = false ∧ t.block.errCfglock = false ∧ t.block.errCap = false ∧
    t.block.errPhase = false ∧ t.block.errRange = false ∧
    (∀ a, Memory.lookup t.block.buf a = none) ∧
    t.cap = s.cap ∧ t.responses = s.responses ∧ t.commands = s.commands ∧
    t.samples = s.samples ∧ t.turns = s.turns

/-- R36 with R172: the state right after power-on, for every legal build. -/
def Obligations.PowerOnStateIsReset : Prop :=
  ∀ cap : Nat,
    (State.resetOf cap).block.phase = .idle ∧ (State.resetOf cap).block.rate = 0 ∧
    (State.resetOf cap).block.seconds = 0 ∧ (State.resetOf cap).block.target = 0 ∧
    (State.resetOf cap).block.valid = 0 ∧ (State.resetOf cap).block.rawb = 0 ∧
    (∀ e, (State.resetOf cap).block.flag e = false) ∧
    (∀ a, Memory.lookup (State.resetOf cap).block.buf a = none) ∧
    (State.resetOf cap).block.ready = false ∧ (State.resetOf cap).block.done = false ∧
    (State.resetOf cap).cap = cap

/-! ## Frames -/

/-- The commands that only read or compute leave every register and every byte of the buffer as they
were; a flag changes only where R107 or R127 names it. -/
def Obligations.ReadingCommandsFrame : Prop :=
  ∀ (i : Instr) (s t : State),
    (∃ x, i = .nop x ∨ i = .readStatus x ∨ i = .readReg x ∨ i = .readPayload x ∨ i = .narrow x) →
    exec i s = .next t →
    t.block.phase = s.block.phase ∧ t.block.rate = s.block.rate ∧
    t.block.seconds = s.block.seconds ∧ t.block.target = s.block.target ∧
    t.block.valid = s.block.valid ∧ t.block.rawb = s.block.rawb ∧
    (∀ a, t.bufByte a = s.bufByte a) ∧
    ((∀ sel, i = .readReg sel → sel.toNat < 7) → t.block.errIllegal = s.block.errIllegal) ∧
    t.block.errCfglock = s.block.errCfglock ∧ t.block.errCap = s.block.errCap ∧
    ((∀ a, i = .readPayload a → s.block.phase = .done) → t.block.errPhase = s.block.errPhase) ∧
    ((∀ a, i = .readPayload a → s.block.phase = .done → a.toNat < 44 + 2 * s.block.valid.toNat) →
      t.block.errRange = s.block.errRange) ∧
    t.cap = s.cap ∧ t.commands = s.commands ∧ t.samples = s.samples ∧ t.turns = s.turns ∧
    t.bufDraw = s.bufDraw

/-- `SET_RATE` and `SET_SECONDS` change their own register and `ERR_CFGLOCK` at most. -/
def Obligations.ConfigurationFrame : Prop :=
  ∀ (i : Instr) (s t : State), (∃ x, i = .setRate x ∨ i = .setSeconds x) → exec i s = .next t →
    t.block.phase = s.block.phase ∧
    ((∀ r, i ≠ .setRate r) → t.block.rate = s.block.rate) ∧
    ((∀ d, i ≠ .setSeconds d) → t.block.seconds = s.block.seconds) ∧
    t.block.target = s.block.target ∧ t.block.valid = s.block.valid ∧ t.block.rawb = s.block.rawb ∧
    (∀ a, t.bufByte a = s.bufByte a) ∧
    t.block.errIllegal = s.block.errIllegal ∧
    (s.block.phase = .idle → t.block.errCfglock = s.block.errCfglock) ∧
    t.block.errCap = s.block.errCap ∧ t.block.errPhase = s.block.errPhase ∧
    t.block.errRange = s.block.errRange ∧
    t.cap = s.cap ∧ t.commands = s.commands ∧ t.samples = s.samples ∧ t.turns = s.turns ∧
    t.bufDraw = s.bufDraw

/-- `START` and `RELEASE` leave the configuration, every byte of the buffer and the other flags as they
were; `RELEASE` leaves the counters too. -/
def Obligations.PhaseCommandsFrame : Prop :=
  ∀ (i : Instr) (s t : State), (∃ x, i = .start x ∨ i = .release x) → exec i s = .next t →
    t.block.rate = s.block.rate ∧ t.block.seconds = s.block.seconds ∧
    ((∀ x, i ≠ .start x) → t.block.target = s.block.target ∧ t.block.valid = s.block.valid ∧
      t.block.rawb = s.block.rawb ∧ t.block.errCap = s.block.errCap) ∧
    (∀ a, t.bufByte a = s.bufByte a) ∧
    t.block.errIllegal = s.block.errIllegal ∧ t.block.errCfglock = s.block.errCfglock ∧
    t.block.errPhase = s.block.errPhase ∧ t.block.errRange = s.block.errRange ∧
    t.cap = s.cap ∧ t.commands = s.commands ∧ t.samples = s.samples ∧ t.turns = s.turns ∧
    t.bufDraw = s.bufDraw

/-- `PUSH` leaves the configuration, the target, every flag, every response and every byte of the buffer
outside entry `VALID` as they were; outside `CAPTURE` it leaves the whole block as it was. That an
unaccepted push (R16, R83) has a next state at all, with its word at the head of `samples`, is the model's
choice (log entry 5). -/
def Obligations.PushFrame : Prop :=
  ∀ (w : Word) (s t : State), exec (.push w) s = .next t →
    t.block.rate = s.block.rate ∧ t.block.seconds = s.block.seconds ∧
    t.block.target = s.block.target ∧ (∀ e, t.block.flag e = s.block.flag e) ∧
    (∀ a, a ≠ 2 * s.block.valid.toNat → a ≠ 2 * s.block.valid.toNat + 1 →
      t.bufByte a = s.bufByte a) ∧
    (s.block.phase ≠ .capture → t.block = s.block ∧ t.samples = w :: s.samples) ∧
    (s.block.phase = .capture → t.samples = s.samples) ∧
    t.responses = s.responses ∧ t.cap = s.cap ∧ t.commands = s.commands ∧ t.turns = s.turns ∧
    t.bufDraw = s.bufDraw

/-- R34's table: which transaction may write which register. -/
def Obligations.RegisterWriters : Prop :=
  ∀ (i : Instr) (s t : State), exec i s = .next t → i ≠ .reset →
    (t.block.phase ≠ s.block.phase →
      ((∃ x, i = .start x) ∧ s.block.phase = .idle) ∨ ((∃ x, i = .release x) ∧ s.block.phase = .done) ∨
      ((∃ w, i = .push w) ∧ s.block.phase = .capture ∧
        s.block.valid.toNat + 1 = s.block.target.toNat)) ∧
    (t.block.rate ≠ s.block.rate → (∃ r, i = .setRate r) ∧ s.block.phase = .idle) ∧
    (t.block.seconds ≠ s.block.seconds → (∃ d, i = .setSeconds d) ∧ s.block.phase = .idle) ∧
    (t.block.target ≠ s.block.target → (∃ x, i = .start x) ∧ s.block.phase = .idle) ∧
    (t.block.valid ≠ s.block.valid ∨ t.block.rawb ≠ s.block.rawb →
      ((∃ x, i = .start x) ∧ s.block.phase = .idle) ∨
      ((∃ w, i = .push w) ∧ s.block.phase = .capture)) ∧
    (∀ k, t.bufEntry k ≠ s.bufEntry k →
      (∃ w, i = .push w) ∧ s.block.phase = .capture ∧ k = s.block.valid.toNat)

/-! ## Errors (60_exceptions.md) -/

/-- R151: after an instruction each flag is set exactly if it was set before or the instruction met that
flag's condition. -/
def Obligations.ErrorCauses : Prop :=
  ∀ (i : Instr) (s t : State), exec i s = .next t → i ≠ .reset →
    (t.block.errIllegal = true ↔
      s.block.errIllegal = true ∨ ∃ sel, i = .readReg sel ∧ 7 ≤ sel.toNat) ∧
    (t.block.errCfglock = true ↔
      s.block.errCfglock = true ∨
        ((∃ x, i = .setRate x ∨ i = .setSeconds x) ∧ s.block.phase ≠ .idle)) ∧
    (t.block.errCap = true ↔
      s.block.errCap = true ∨
        ((∃ x, i = .start x) ∧ s.block.phase = .idle ∧
          s.cap < s.block.rate.toNat * s.block.seconds.toNat)) ∧
    (t.block.errPhase = true ↔
      s.block.errPhase = true ∨ ((∃ a, i = .readPayload a) ∧ s.block.phase ≠ .done)) ∧
    (t.block.errRange = true ↔
      s.block.errRange = true ∨
        ∃ a, i = .readPayload a ∧ s.block.phase = .done ∧
          44 + 2 * s.block.valid.toNat ≤ a.toNat)

/-- R156: a flag once set stays set through every turn but a reset, and a reset clears them all. -/
def Obligations.FlagsAreSticky : Prop :=
  ∀ s t : State, step s = .next t →
    ((∀ ts, s.turns ≠ .reset :: ts) → ∀ e, s.block.flag e = true → t.block.flag e = true) ∧
    (∀ ts, s.turns = .reset :: ts → ∀ e, t.block.flag e = false)

/-- R154 (a): one transaction sets at most one flag. -/
def Obligations.OneFlagPerTransaction : Prop :=
  ∀ (s t : State) (e e' : ErrFlag), step s = .next t →
    s.block.flag e = false → t.block.flag e = true →
    s.block.flag e' = false → t.block.flag e' = true → e = e'

/-- R129: a host command gives exactly one response, in its own transaction, in every phase. The two forms
that are no host command give none: an accepted push by R82 and R63, one that is not accepted by R83 and a
reset by R170. That a push outside `CAPTURE` has a next state at all, where R16 and R83 say that no
transaction takes place, is the model's choice (log entry 5). -/
def Obligations.OneResponsePerCommand : Prop :=
  ∀ (i : Instr) (s : State), s.Inv →
    ∃ t, exec i s = .next t ∧
      (i.fromHost = true → ∃ v, t.responses = s.responses ++ [v]) ∧
      (i.fromHost = false → t.responses = s.responses)

/-- R31: the output levels are functions of the phase. -/
def Obligations.OutputLevelsFollowPhase : Prop :=
  ∀ b : Block, (b.ready = true ↔ b.phase = .capture) ∧ (b.done = true ↔ b.phase = .done)

/-- The model's one fault (log entry 8): a buffer entry at or past `CAP` does not exist. Only states
outside R32 meet these premises. -/
def Obligations.AbsentBufferEntryFaults : Prop :=
  ∀ (w : Word) (s : State),
    (s.block.phase = .capture → s.cap ≤ s.block.valid.toNat →
      exec (.push w) s = .fault (.bufferIndex s.block.valid.toNat)) ∧
    (s.block.phase = .done → 44 + 2 * s.cap ≤ w.toNat → w.toNat < 44 + 2 * s.block.valid.toNat →
      exec (.readPayload w) s = .fault (.bufferIndex ((w.toNat - 44) / 2)))

/-! ## The whole machine -/

/-- When an agent's turn offers bits that decode to an instruction, the step is that instruction run on
the state from which the offer was taken (20_memory.md R48). That turns and offers are fields of State is
the model's choice (log entry 4). -/
def Obligations.StepRunsDecodedInstruction : Prop :=
  ∀ (s : State) (ts : List Agent) (i : Instr), i.wellFormed = true →
    (∀ c cs, s.turns = .host :: ts → s.commands = c :: cs → decode (.command c) = .ok i →
      step s = exec i { s with turns := ts, commands := cs }) ∧
    (∀ w ws, s.turns = .source :: ts → s.samples = w :: ws → decode (.sample w) = .ok i →
      step s = exec i { s with turns := ts, samples := ws }) ∧
    (s.turns = .reset :: ts → decode .reset = .ok i → step s = exec i { s with turns := ts })

/-- An instruction placed by `withFetchWord` is the one the very next step runs. The placing is the model's
choice (log entry 4). -/
def Obligations.PlacedInstructionRunsNext : Prop :=
  ∀ (s : State) (nbits w : Nat) (i : Instr), decodeTableWord nbits w = some i →
    step (s.withFetchWord nbits w) = exec i s

/-- Where nothing is offered no transaction takes place (log entry 6): the block and what the agents
hold stay, and the turn passes. -/
def Obligations.NothingOfferedChangesNothing : Prop :=
  ∀ s : State,
    (s.turns = [] → step s = .next s) ∧
    (∀ ts, s.turns = .host :: ts → s.commands = [] → step s = .next { s with turns := ts }) ∧
    (∀ ts, s.turns = .source :: ts → s.samples = [] → step s = .next { s with turns := ts })

/-- R32 holds right after power-on of every legal build, the reference build among them. -/
def Obligations.InvariantHoldsAtReset : Prop :=
  (∀ cap, Config.capLegal cap → (State.resetOf cap).Inv) ∧ State.reset.Inv

/-- R32 is kept by every step, from every state that meets it. -/
def Obligations.StepKeepsInvariant : Prop :=
  ∀ s t : State, s.Inv → step s = .next t → t.Inv

/-- A state that meets R32 always has a next state. For a transaction that takes place this is R150's "No
condition stops a transaction part-way". At a turn with nothing offered, and at a `PUSH` that is not
accepted, the spec has no step (R16, and U2 and U8 of 93_implementation_defined.md call it stuck): that
the model answers a next state there is its own choice (log entries 6 and 5). -/
def Obligations.StepNeverStops : Prop :=
  ∀ s : State, s.Inv → ∃ t, step s = .next t

/-- R32 along every run: whatever the host, the source and the reset offer and in whatever order, the
block of any legal build keeps R32 for ever. That the run never stops is R150 where a transaction takes
place; at idle turns and at pushes that are not accepted it is the model's choice (log entries 6 and 5). -/
def Obligations.EveryRunMeetsInvariant : Prop :=
  ∀ (cap : Nat) (commands : List CommandWord) (samples : List Word) (turns : List Agent) (k : Nat),
    Config.capLegal cap →
    ∃ t, stepAll k { State.resetOf cap with commands := commands, samples := samples,
                                            turns := turns } = some t ∧
      t.Inv ∧ t.cap = cap

/-- No step is refused, in any state: every instruction has a meaning. That a turn with nothing offered and
a push that is not accepted are no refusal either is the model's choice (log entries 6 and 5). -/
def Obligations.StepNeverRefuses : Prop :=
  ∀ (s : State) (r : Refusal), step s ≠ .refused r

/-- R8 and R30: the capacity is hardwired: no step changes it. -/
def Obligations.CapacityIsHardwired : Prop :=
  ∀ s t : State, step s = .next t → t.cap = s.cap

/-- R49 (b): while the phase stays `DONE` the payload does not change. -/
def Obligations.PayloadIsStableInDone : Prop :=
  ∀ s t : State, s.block.phase = .done → step s = .next t →
    t.block.phase = .idle ∨
    (t.block.phase = .done ∧ t.block.rate = s.block.rate ∧ t.block.valid = s.block.valid ∧
      (∀ a, payloadByte t a = payloadByte s a) ∧ t.uploadPayload = s.uploadPayload)

/-- R86 and R171: a capture ends only with the push that reaches the target or with a reset. -/
def Obligations.CaptureEndsOnlyByLastPushOrReset : Prop :=
  ∀ s t : State, s.block.phase = .capture → step s = .next t →
    t.block.phase = .capture ∨
    (t.block.phase = .done ∧ (∃ ts, s.turns = .source :: ts) ∧ s.samples ≠ [] ∧
      s.block.valid.toNat + 1 = s.block.target.toNat) ∨
    (t.block.phase = .idle ∧ ∃ ts, s.turns = .reset :: ts)

/-- R152 (c), R163: with a silent source and no reset a capture stays as it is for ever, whatever the
host does. The source is silent if it has no words to offer or gets no turn. U1 and U2
(93_implementation_defined.md) call the stalled block stuck: that the machine goes on, a turn with nothing
offered being a next state, is the model's choice (log entry 6). -/
def Obligations.StalledCaptureNeverEnds : Prop :=
  ∀ (k : Nat) (s : State), s.block.phase = .capture →
    (∀ x ∈ s.turns, x ≠ Agent.reset) →
    (s.samples = [] ∨ ∀ x ∈ s.turns, x ≠ Agent.source) →
    ∃ t, stepAll k s = some t ∧
      t.block.phase = .capture ∧ t.block.valid = s.block.valid ∧ t.block.rawb = s.block.rawb ∧
      t.block.target = s.block.target ∧ t.block.buf = s.block.buf ∧ t.samples = s.samples

/-- R32 item 5's guarantee, "no stale-data leakage across triggers": two blocks in `IDLE` that differ
only in what their buffers hold give the host the same responses in every run, step for step. -/
def Obligations.StaleSamplesNeverReachHost : Prop :=
  ∀ (k : Nat) (s : State) (buf : Memory) (draw : Nat) (t : State),
    s.Inv → State.Inv { s with bufDraw := draw, block := { s.block with buf := buf } } →
    s.block.phase = .idle →
    stepAll k s = some t →
    ∃ t', stepAll k { s with bufDraw := draw, block := { s.block with buf := buf } } = some t' ∧
      t'.responses = t.responses

/-- R154 (b): a `READ_STATUS` and the final `PUSH` may be ordered either way: the host sees `DONE` clear
if it comes first and set if it comes second, and the capture completes in both orders. -/
def Obligations.StatusAndFinalPushEitherOrder : Prop :=
  ∀ (s : State) (c : CommandWord) (cs : List CommandWord) (w : Word) (ws : List Word) (arg : Word),
    s.Inv → s.block.phase = .capture → s.block.valid.toNat + 1 = s.block.target.toNat →
    s.commands = c :: cs → decode (.command c) = .ok (.readStatus arg) → s.samples = w :: ws →
    (∃ t v, stepAll 2 { s with turns := [.host, .source] } = some t ∧ t.block.phase = .done ∧
      t.responses = s.responses ++ [v] ∧ v.getLsbD 3 = false) ∧
    (∃ t v, stepAll 2 { s with turns := [.source, .host] } = some t ∧ t.block.phase = .done ∧
      t.responses = s.responses ++ [v] ∧ v.getLsbD 3 = true)

end
end

