-- ==== Sys2Proof/Laws/Decode.lean ====
section
/-! SUPPORT. The two fields of a command word (30_encoding.md R61) and the small lemmas of the decoder. -/

namespace Sys2Proof

/-- A command word as one number: the opcode above the operand. -/
theorem commandWord_toNat (op : BitVec 8) (arg : Word) :
    (commandWord op arg).toNat = op.toNat * 2 ^ 32 + arg.toNat := by
  rw [commandWord, BitVec.toNat_append, ← Nat.shiftLeft_add_eq_or_of_lt arg.isLt,
    Nat.shiftLeft_eq]

@[simp] theorem commandOp_commandWord (op : BitVec 8) (arg : Word) :
    commandOp (commandWord op arg) = op := by
  have h1 := op.isLt
  have h2 := arg.isLt
  apply BitVec.eq_of_toNat_eq
  rw [commandOp, BitVec.extractLsb'_toNat, commandWord_toNat, Nat.shiftRight_eq_div_pow]
  omega

@[simp] theorem commandArg_commandWord (op : BitVec 8) (arg : Word) :
    commandArg (commandWord op arg) = arg := by
  have h2 := arg.isLt
  apply BitVec.eq_of_toNat_eq
  rw [commandArg, BitVec.extractLsb'_toNat, commandWord_toNat, Nat.shiftRight_eq_div_pow]
  omega

/-- A command word is its two fields. -/
theorem commandWord_fields (c : CommandWord) : commandWord (commandOp c) (commandArg c) = c := by
  rw [commandWord, commandOp, commandArg,
    BitVec.extractLsb'_append_extractLsb'_eq_extractLsb' (by rfl)]
  exact BitVec.extractLsb'_eq_self

@[simp] theorem decode_command (c : CommandWord) : decode (.command c) = decodeCommand c := rfl

@[simp] theorem decode_sample (w : Word) : decode (.sample w) = .ok (.push w) := rfl

@[simp] theorem decode_reset : decode .reset = .ok .reset := rfl

end Sys2Proof
end

