-- ==== Sys2Proof/Laws/Encoder.lean ====
section
/-! SUPPORT. Little-endian sequences and the header's length. -/

namespace Sys2Proof.Machine

@[simp] theorem le16_length (v : BitVec 16) : (le16 v).length = 2 := rfl

@[simp] theorem le32_length (v : Word) : (le32 v).length = 4 := rfl

theorem leNat_le16 (v : BitVec 16) : leNat (le16 v) = v.toNat := by
  have := v.isLt
  simp only [le16, leNat, BitVec.extractLsb'_toNat, Nat.shiftRight_eq_div_pow]
  omega

theorem leNat_le32 (v : Word) : leNat (le32 v) = v.toNat := by
  have := v.isLt
  simp only [le32, leNat, BitVec.extractLsb'_toNat, Nat.shiftRight_eq_div_pow]
  omega

/-- A 32-bit field is told by its four bytes. -/
theorem le32_injective {v w : Word} (h : le32 v = le32 w) : v = w :=
  BitVec.eq_of_toNat_eq (by rw [← leNat_le32, ← leNat_le32, h])

end Sys2Proof.Machine
end

