-- ==== Sys2Proof/Laws/State.lean ====
section
/-! SUPPORT. One lemma per field per named update of the state. -/

namespace Sys2Proof.Machine

section
variable (s : State)

/-! `respond`, `holdSample`, `passTurn`: the block stays. -/

@[simp] theorem State.respond_block (v : Word) : (s.respond v).block = s.block := rfl
@[simp] theorem State.respond_cap (v : Word) : (s.respond v).cap = s.cap := rfl
@[simp] theorem State.respond_commands (v : Word) : (s.respond v).commands = s.commands := rfl
@[simp] theorem State.respond_responses (v : Word) : (s.respond v).responses = s.responses ++ [v] := rfl
@[simp] theorem State.respond_samples (v : Word) : (s.respond v).samples = s.samples := rfl
@[simp] theorem State.respond_turns (v : Word) : (s.respond v).turns = s.turns := rfl
@[simp] theorem State.respond_bufDraw (v : Word) : (s.respond v).bufDraw = s.bufDraw := rfl

@[simp] theorem State.holdSample_block (w : Word) : (s.holdSample w).block = s.block := rfl
@[simp] theorem State.holdSample_cap (w : Word) : (s.holdSample w).cap = s.cap := rfl
@[simp] theorem State.holdSample_commands (w : Word) : (s.holdSample w).commands = s.commands := rfl
@[simp] theorem State.holdSample_responses (w : Word) : (s.holdSample w).responses = s.responses := rfl
@[simp] theorem State.holdSample_samples (w : Word) : (s.holdSample w).samples = w :: s.samples := rfl
@[simp] theorem State.holdSample_turns (w : Word) : (s.holdSample w).turns = s.turns := rfl
@[simp] theorem State.holdSample_bufDraw (w : Word) : (s.holdSample w).bufDraw = s.bufDraw := rfl

@[simp] theorem State.passTurn_block : (s.passTurn).block = s.block := rfl
@[simp] theorem State.passTurn_cap : (s.passTurn).cap = s.cap := rfl
@[simp] theorem State.passTurn_commands : (s.passTurn).commands = s.commands := rfl
@[simp] theorem State.passTurn_responses : (s.passTurn).responses = s.responses := rfl
@[simp] theorem State.passTurn_samples : (s.passTurn).samples = s.samples := rfl
@[simp] theorem State.passTurn_turns : (s.passTurn).turns = s.turns.tail := rfl
@[simp] theorem State.passTurn_bufDraw : (s.passTurn).bufDraw = s.bufDraw := rfl

/-! `setRate`, `setSeconds`, `setPhase`, `setBufEntry`, `countWord`, `beginCapture`, `resetBlock`: the agents' fields stay. -/

@[simp] theorem State.setRate_cap (v : Word) : (s.setRate v).cap = s.cap := rfl
@[simp] theorem State.setRate_commands (v : Word) : (s.setRate v).commands = s.commands := rfl
@[simp] theorem State.setRate_responses (v : Word) : (s.setRate v).responses = s.responses := rfl
@[simp] theorem State.setRate_samples (v : Word) : (s.setRate v).samples = s.samples := rfl
@[simp] theorem State.setRate_turns (v : Word) : (s.setRate v).turns = s.turns := rfl
@[simp] theorem State.setRate_bufDraw (v : Word) : (s.setRate v).bufDraw = s.bufDraw := rfl
@[simp] theorem State.setRate_block_phase (v : Word) : (s.setRate v).block.phase = s.block.phase := rfl
@[simp] theorem State.setRate_block_rate (v : Word) : (s.setRate v).block.rate = v := rfl
@[simp] theorem State.setRate_block_seconds (v : Word) : (s.setRate v).block.seconds = s.block.seconds := rfl
@[simp] theorem State.setRate_block_target (v : Word) : (s.setRate v).block.target = s.block.target := rfl
@[simp] theorem State.setRate_block_valid (v : Word) : (s.setRate v).block.valid = s.block.valid := rfl
@[simp] theorem State.setRate_block_rawb (v : Word) : (s.setRate v).block.rawb = s.block.rawb := rfl
@[simp] theorem State.setRate_block_buf (v : Word) : (s.setRate v).block.buf = s.block.buf := rfl
@[simp] theorem State.setRate_block_errIllegal (v : Word) : (s.setRate v).block.errIllegal = s.block.errIllegal := rfl
@[simp] theorem State.setRate_block_errCfglock (v : Word) : (s.setRate v).block.errCfglock = s.block.errCfglock := rfl
@[simp] theorem State.setRate_block_errCap (v : Word) : (s.setRate v).block.errCap = s.block.errCap := rfl
@[simp] theorem State.setRate_block_errPhase (v : Word) : (s.setRate v).block.errPhase = s.block.errPhase := rfl
@[simp] theorem State.setRate_block_errRange (v : Word) : (s.setRate v).block.errRange = s.block.errRange := rfl

@[simp] theorem State.setSeconds_cap (v : Word) : (s.setSeconds v).cap = s.cap := rfl
@[simp] theorem State.setSeconds_commands (v : Word) : (s.setSeconds v).commands = s.commands := rfl
@[simp] theorem State.setSeconds_responses (v : Word) : (s.setSeconds v).responses = s.responses := rfl
@[simp] theorem State.setSeconds_samples (v : Word) : (s.setSeconds v).samples = s.samples := rfl
@[simp] theorem State.setSeconds_turns (v : Word) : (s.setSeconds v).turns = s.turns := rfl
@[simp] theorem State.setSeconds_bufDraw (v : Word) : (s.setSeconds v).bufDraw = s.bufDraw := rfl
@[simp] theorem State.setSeconds_block_phase (v : Word) : (s.setSeconds v).block.phase = s.block.phase := rfl
@[simp] theorem State.setSeconds_block_rate (v : Word) : (s.setSeconds v).block.rate = s.block.rate := rfl
@[simp] theorem State.setSeconds_block_seconds (v : Word) : (s.setSeconds v).block.seconds = v := rfl
@[simp] theorem State.setSeconds_block_target (v : Word) : (s.setSeconds v).block.target = s.block.target := rfl
@[simp] theorem State.setSeconds_block_valid (v : Word) : (s.setSeconds v).block.valid = s.block.valid := rfl
@[simp] theorem State.setSeconds_block_rawb (v : Word) : (s.setSeconds v).block.rawb = s.block.rawb := rfl
@[simp] theorem State.setSeconds_block_buf (v : Word) : (s.setSeconds v).block.buf = s.block.buf := rfl
@[simp] theorem State.setSeconds_block_errIllegal (v : Word) : (s.setSeconds v).block.errIllegal = s.block.errIllegal := rfl
@[simp] theorem State.setSeconds_block_errCfglock (v : Word) : (s.setSeconds v).block.errCfglock = s.block.errCfglock := rfl
@[simp] theorem State.setSeconds_block_errCap (v : Word) : (s.setSeconds v).block.errCap = s.block.errCap := rfl
@[simp] theorem State.setSeconds_block_errPhase (v : Word) : (s.setSeconds v).block.errPhase = s.block.errPhase := rfl
@[simp] theorem State.setSeconds_block_errRange (v : Word) : (s.setSeconds v).block.errRange = s.block.errRange := rfl

@[simp] theorem State.setPhase_cap (p : Phase) : (s.setPhase p).cap = s.cap := rfl
@[simp] theorem State.setPhase_commands (p : Phase) : (s.setPhase p).commands = s.commands := rfl
@[simp] theorem State.setPhase_responses (p : Phase) : (s.setPhase p).responses = s.responses := rfl
@[simp] theorem State.setPhase_samples (p : Phase) : (s.setPhase p).samples = s.samples := rfl
@[simp] theorem State.setPhase_turns (p : Phase) : (s.setPhase p).turns = s.turns := rfl
@[simp] theorem State.setPhase_bufDraw (p : Phase) : (s.setPhase p).bufDraw = s.bufDraw := rfl
@[simp] theorem State.setPhase_block_phase (p : Phase) : (s.setPhase p).block.phase = p := rfl
@[simp] theorem State.setPhase_block_rate (p : Phase) : (s.setPhase p).block.rate = s.block.rate := rfl
@[simp] theorem State.setPhase_block_seconds (p : Phase) : (s.setPhase p).block.seconds = s.block.seconds := rfl
@[simp] theorem State.setPhase_block_target (p : Phase) : (s.setPhase p).block.target = s.block.target := rfl
@[simp] theorem State.setPhase_block_valid (p : Phase) : (s.setPhase p).block.valid = s.block.valid := rfl
@[simp] theorem State.setPhase_block_rawb (p : Phase) : (s.setPhase p).block.rawb = s.block.rawb := rfl
@[simp] theorem State.setPhase_block_buf (p : Phase) : (s.setPhase p).block.buf = s.block.buf := rfl
@[simp] theorem State.setPhase_block_errIllegal (p : Phase) : (s.setPhase p).block.errIllegal = s.block.errIllegal := rfl
@[simp] theorem State.setPhase_block_errCfglock (p : Phase) : (s.setPhase p).block.errCfglock = s.block.errCfglock := rfl
@[simp] theorem State.setPhase_block_errCap (p : Phase) : (s.setPhase p).block.errCap = s.block.errCap := rfl
@[simp] theorem State.setPhase_block_errPhase (p : Phase) : (s.setPhase p).block.errPhase = s.block.errPhase := rfl
@[simp] theorem State.setPhase_block_errRange (p : Phase) : (s.setPhase p).block.errRange = s.block.errRange := rfl

@[simp] theorem State.setBufEntry_cap (k : Nat) (v : Sample) : (s.setBufEntry k v).cap = s.cap := rfl
@[simp] theorem State.setBufEntry_commands (k : Nat) (v : Sample) : (s.setBufEntry k v).commands = s.commands := rfl
@[simp] theorem State.setBufEntry_responses (k : Nat) (v : Sample) : (s.setBufEntry k v).responses = s.responses := rfl
@[simp] theorem State.setBufEntry_samples (k : Nat) (v : Sample) : (s.setBufEntry k v).samples = s.samples := rfl
@[simp] theorem State.setBufEntry_turns (k : Nat) (v : Sample) : (s.setBufEntry k v).turns = s.turns := rfl
@[simp] theorem State.setBufEntry_bufDraw (k : Nat) (v : Sample) : (s.setBufEntry k v).bufDraw = s.bufDraw := rfl
@[simp] theorem State.setBufEntry_block_phase (k : Nat) (v : Sample) : (s.setBufEntry k v).block.phase = s.block.phase := rfl
@[simp] theorem State.setBufEntry_block_rate (k : Nat) (v : Sample) : (s.setBufEntry k v).block.rate = s.block.rate := rfl
@[simp] theorem State.setBufEntry_block_seconds (k : Nat) (v : Sample) : (s.setBufEntry k v).block.seconds = s.block.seconds := rfl
@[simp] theorem State.setBufEntry_block_target (k : Nat) (v : Sample) : (s.setBufEntry k v).block.target = s.block.target := rfl
@[simp] theorem State.setBufEntry_block_valid (k : Nat) (v : Sample) : (s.setBufEntry k v).block.valid = s.block.valid := rfl
@[simp] theorem State.setBufEntry_block_rawb (k : Nat) (v : Sample) : (s.setBufEntry k v).block.rawb = s.block.rawb := rfl
@[simp] theorem State.setBufEntry_block_buf (k : Nat) (v : Sample) : (s.setBufEntry k v).block.buf = Memory.storeSample s.block.buf k v := rfl
@[simp] theorem State.setBufEntry_block_errIllegal (k : Nat) (v : Sample) : (s.setBufEntry k v).block.errIllegal = s.block.errIllegal := rfl
@[simp] theorem State.setBufEntry_block_errCfglock (k : Nat) (v : Sample) : (s.setBufEntry k v).block.errCfglock = s.block.errCfglock := rfl
@[simp] theorem State.setBufEntry_block_errCap (k : Nat) (v : Sample) : (s.setBufEntry k v).block.errCap = s.block.errCap := rfl
@[simp] theorem State.setBufEntry_block_errPhase (k : Nat) (v : Sample) : (s.setBufEntry k v).block.errPhase = s.block.errPhase := rfl
@[simp] theorem State.setBufEntry_block_errRange (k : Nat) (v : Sample) : (s.setBufEntry k v).block.errRange = s.block.errRange := rfl

@[simp] theorem State.countWord_cap : (s.countWord).cap = s.cap := rfl
@[simp] theorem State.countWord_commands : (s.countWord).commands = s.commands := rfl
@[simp] theorem State.countWord_responses : (s.countWord).responses = s.responses := rfl
@[simp] theorem State.countWord_samples : (s.countWord).samples = s.samples := rfl
@[simp] theorem State.countWord_turns : (s.countWord).turns = s.turns := rfl
@[simp] theorem State.countWord_bufDraw : (s.countWord).bufDraw = s.bufDraw := rfl
@[simp] theorem State.countWord_block_phase : (s.countWord).block.phase = if s.block.valid.toNat + 1 = s.block.target.toNat then .done else s.block.phase := rfl
@[simp] theorem State.countWord_block_rate : (s.countWord).block.rate = s.block.rate := rfl
@[simp] theorem State.countWord_block_seconds : (s.countWord).block.seconds = s.block.seconds := rfl
@[simp] theorem State.countWord_block_target : (s.countWord).block.target = s.block.target := rfl
@[simp] theorem State.countWord_block_valid : (s.countWord).block.valid = s.block.valid + 1 := rfl
@[simp] theorem State.countWord_block_rawb : (s.countWord).block.rawb = s.block.rawb + 4 := rfl
@[simp] theorem State.countWord_block_buf : (s.countWord).block.buf = s.block.buf := rfl
@[simp] theorem State.countWord_block_errIllegal : (s.countWord).block.errIllegal = s.block.errIllegal := rfl
@[simp] theorem State.countWord_block_errCfglock : (s.countWord).block.errCfglock = s.block.errCfglock := rfl
@[simp] theorem State.countWord_block_errCap : (s.countWord).block.errCap = s.block.errCap := rfl
@[simp] theorem State.countWord_block_errPhase : (s.countWord).block.errPhase = s.block.errPhase := rfl
@[simp] theorem State.countWord_block_errRange : (s.countWord).block.errRange = s.block.errRange := rfl

@[simp] theorem State.beginCapture_cap (p : Nat) : (s.beginCapture p).cap = s.cap := rfl
@[simp] theorem State.beginCapture_commands (p : Nat) : (s.beginCapture p).commands = s.commands := rfl
@[simp] theorem State.beginCapture_responses (p : Nat) : (s.beginCapture p).responses = s.responses := rfl
@[simp] theorem State.beginCapture_samples (p : Nat) : (s.beginCapture p).samples = s.samples := rfl
@[simp] theorem State.beginCapture_turns (p : Nat) : (s.beginCapture p).turns = s.turns := rfl
@[simp] theorem State.beginCapture_bufDraw (p : Nat) : (s.beginCapture p).bufDraw = s.bufDraw := rfl
@[simp] theorem State.beginCapture_block_phase (p : Nat) : (s.beginCapture p).block.phase = if p = 0 then .done else .capture := rfl
@[simp] theorem State.beginCapture_block_rate (p : Nat) : (s.beginCapture p).block.rate = s.block.rate := rfl
@[simp] theorem State.beginCapture_block_seconds (p : Nat) : (s.beginCapture p).block.seconds = s.block.seconds := rfl
@[simp] theorem State.beginCapture_block_target (p : Nat) : (s.beginCapture p).block.target = BitVec.ofNat 32 p := rfl
@[simp] theorem State.beginCapture_block_valid (p : Nat) : (s.beginCapture p).block.valid = 0 := rfl
@[simp] theorem State.beginCapture_block_rawb (p : Nat) : (s.beginCapture p).block.rawb = 0 := rfl
@[simp] theorem State.beginCapture_block_buf (p : Nat) : (s.beginCapture p).block.buf = s.block.buf := rfl
@[simp] theorem State.beginCapture_block_errIllegal (p : Nat) : (s.beginCapture p).block.errIllegal = s.block.errIllegal := rfl
@[simp] theorem State.beginCapture_block_errCfglock (p : Nat) : (s.beginCapture p).block.errCfglock = s.block.errCfglock := rfl
@[simp] theorem State.beginCapture_block_errCap (p : Nat) : (s.beginCapture p).block.errCap = s.block.errCap := rfl
@[simp] theorem State.beginCapture_block_errPhase (p : Nat) : (s.beginCapture p).block.errPhase = s.block.errPhase := rfl
@[simp] theorem State.beginCapture_block_errRange (p : Nat) : (s.beginCapture p).block.errRange = s.block.errRange := rfl

@[simp] theorem State.resetBlock_cap : (s.resetBlock).cap = s.cap := rfl
@[simp] theorem State.resetBlock_commands : (s.resetBlock).commands = s.commands := rfl
@[simp] theorem State.resetBlock_responses : (s.resetBlock).responses = s.responses := rfl
@[simp] theorem State.resetBlock_samples : (s.resetBlock).samples = s.samples := rfl
@[simp] theorem State.resetBlock_turns : (s.resetBlock).turns = s.turns := rfl
@[simp] theorem State.resetBlock_bufDraw : (s.resetBlock).bufDraw = s.bufDraw + 1 := rfl
@[simp] theorem State.resetBlock_block : (s.resetBlock).block = Block.reset := rfl

/-! `raise`: only the flag changes. -/

@[simp] theorem State.raise_cap (e : ErrFlag) : (s.raise e).cap = s.cap := by cases e <;> rfl
@[simp] theorem State.raise_commands (e : ErrFlag) : (s.raise e).commands = s.commands := by cases e <;> rfl
@[simp] theorem State.raise_responses (e : ErrFlag) : (s.raise e).responses = s.responses := by cases e <;> rfl
@[simp] theorem State.raise_samples (e : ErrFlag) : (s.raise e).samples = s.samples := by cases e <;> rfl
@[simp] theorem State.raise_turns (e : ErrFlag) : (s.raise e).turns = s.turns := by cases e <;> rfl
@[simp] theorem State.raise_bufDraw (e : ErrFlag) : (s.raise e).bufDraw = s.bufDraw := by cases e <;> rfl
@[simp] theorem State.raise_block_phase (e : ErrFlag) : (s.raise e).block.phase = s.block.phase := by cases e <;> rfl
@[simp] theorem State.raise_block_rate (e : ErrFlag) : (s.raise e).block.rate = s.block.rate := by cases e <;> rfl
@[simp] theorem State.raise_block_seconds (e : ErrFlag) : (s.raise e).block.seconds = s.block.seconds := by cases e <;> rfl
@[simp] theorem State.raise_block_target (e : ErrFlag) : (s.raise e).block.target = s.block.target := by cases e <;> rfl
@[simp] theorem State.raise_block_valid (e : ErrFlag) : (s.raise e).block.valid = s.block.valid := by cases e <;> rfl
@[simp] theorem State.raise_block_rawb (e : ErrFlag) : (s.raise e).block.rawb = s.block.rawb := by cases e <;> rfl
@[simp] theorem State.raise_block_buf (e : ErrFlag) : (s.raise e).block.buf = s.block.buf := by cases e <;> rfl
@[simp] theorem State.raise_block_errIllegal (e : ErrFlag) : (s.raise e).block.errIllegal = (s.block.errIllegal || decide (e = .illegal)) := by
  cases e <;> simp [State.raise]
@[simp] theorem State.raise_block_errCfglock (e : ErrFlag) : (s.raise e).block.errCfglock = (s.block.errCfglock || decide (e = .cfglock)) := by
  cases e <;> simp [State.raise]
@[simp] theorem State.raise_block_errCap (e : ErrFlag) : (s.raise e).block.errCap = (s.block.errCap || decide (e = .cap)) := by
  cases e <;> simp [State.raise]
@[simp] theorem State.raise_block_errPhase (e : ErrFlag) : (s.raise e).block.errPhase = (s.block.errPhase || decide (e = .phase)) := by
  cases e <;> simp [State.raise]
@[simp] theorem State.raise_block_errRange (e : ErrFlag) : (s.raise e).block.errRange = (s.block.errRange || decide (e = .range)) := by
  cases e <;> simp [State.raise]

end

end Sys2Proof.Machine
end

