-- ==== Sys2Proof/Laws/Exec.lean ====
section
/-! SUPPORT. Everything each meaning can do, said once. -/

namespace Sys2Proof.Machine

variable {s t : State}

theorem execNop_cases {arg : Word} (h : execNop arg s = .next t) : t = s.respond 0 := by
  simpa [execNop] using h.symm

theorem execSetRate_cases {r : Word} (h : execSetRate r s = .next t) :
    (s.block.phase = .idle ∧
      t = (s.setRate r).respond 0) ∨
    (s.block.phase ≠ .idle ∧ t = (s.raise .cfglock).respond 0) := by
  cases hp : s.block.phase <;> simp [execSetRate, hp] at h <;> simp [← h]

theorem execSetSeconds_cases {d : Word} (h : execSetSeconds d s = .next t) :
    (s.block.phase = .idle ∧
      t = (s.setSeconds d).respond 0) ∨
    (s.block.phase ≠ .idle ∧ t = (s.raise .cfglock).respond 0) := by
  cases hp : s.block.phase <;> simp [execSetSeconds, hp] at h <;> simp [← h]

theorem execStart_cases {arg : Word} (h : execStart arg s = .next t) :
    (s.block.phase = .idle ∧ s.cap < product s.block.rate s.block.seconds ∧
      t = (s.raise .cap).respond 0) ∨
    (s.block.phase = .idle ∧ product s.block.rate s.block.seconds ≤ s.cap ∧
      t = (s.beginCapture (product s.block.rate s.block.seconds)).respond 0) ∨
    (s.block.phase ≠ .idle ∧ t = s.respond 0) := by
  cases hp : s.block.phase <;> simp only [execStart, hp] at h
  · split at h
    · rename_i hc
      exact .inl ⟨rfl, hc, by simpa using h.symm⟩
    · rename_i hc
      exact .inr (.inl ⟨rfl, by omega, by simpa using h.symm⟩)
  all_goals exact .inr (.inr ⟨by simp, by simpa using h.symm⟩)

theorem execRelease_cases {arg : Word} (h : execRelease arg s = .next t) :
    (s.block.phase = .done ∧ t = (s.setPhase .idle).respond 0) ∨
    (s.block.phase ≠ .done ∧ t = s.respond 0) := by
  cases hp : s.block.phase <;> simp [execRelease, hp] at h <;> simp [← h]

theorem execReadStatus_cases {arg : Word} (h : execReadStatus arg s = .next t) :
    t = s.respond s.block.status := by
  simpa [execReadStatus] using h.symm

theorem execReadReg_cases {sel : Word} (h : execReadReg sel s = .next t) :
    (∃ v, s.register sel = some v ∧ t = s.respond v) ∨
    (s.register sel = none ∧ t = (s.raise .illegal).respond 0) := by
  cases hr : s.register sel <;> simp [execReadReg, hr] at h <;> simp [← h]

/-- The register map ends at selector 6. -/
theorem State.register_none_iff (s : State) (sel : Word) : s.register sel = none ↔ 7 ≤ sel.toNat := by
  rcases Nat.lt_or_ge sel.toNat 7 with h | h
  · rw [State.register]
    interval_cases sel.toNat <;> simp
  · obtain ⟨n, hn⟩ : ∃ n, sel.toNat = n + 7 := ⟨sel.toNat - 7, by omega⟩
    simp [State.register, hn]

theorem execReadPayload_cases {a : Word} (h : execReadPayload a s = .next t) :
    (s.block.phase ≠ .done ∧ t = (s.raise .phase).respond 0) ∨
    (s.block.phase = .done ∧ payloadLen s.block ≤ a.toNat ∧ t = (s.raise .range).respond 0) ∨
    (s.block.phase = .done ∧ a.toNat < payloadLen s.block ∧ a.toNat < 44 + 2 * s.cap ∧
      t = s.respond (zext32 (payloadByte s a.toNat))) := by
  simp only [execReadPayload] at h
  split at h
  · rename_i hp
    exact .inl ⟨hp, by simpa using h.symm⟩
  · rename_i hp
    have hd : s.block.phase = .done := by simpa using hp
    split at h
    · rename_i hl
      exact .inr (.inl ⟨hd, hl, by simpa using h.symm⟩)
    · rename_i hl
      split at h
      · rename_i hc
        exact .inr (.inr ⟨hd, by omega, hc, by simpa using h.symm⟩)
      · simp at h

theorem execNarrow_cases {w : Word} (h : execNarrow w s = .next t) :
    t = s.respond (sext32 (narrow16 w)) := by
  simpa [execNarrow] using h.symm

theorem execPush_cases {w : Word} (h : execPush w s = .next t) :
    (s.block.phase = .capture ∧ s.block.valid.toNat < s.cap ∧
      t = (s.setBufEntry s.block.valid.toNat (narrow16 w)).countWord) ∨
    (s.block.phase ≠ .capture ∧ t = s.holdSample w) := by
  cases hp : s.block.phase <;> simp only [execPush, hp] at h
  case capture =>
    split at h
    · rename_i hc
      exact .inl ⟨rfl, hc, by simpa using h.symm⟩
    · simp at h
  all_goals exact .inr ⟨by simp, by simpa using h.symm⟩

theorem execReset_cases (h : execReset s = .next t) : t = s.resetBlock := by
  simpa [execReset] using h.symm

theorem execIllegal_cases (h : execIllegal s = .next t) : t = (s.raise .illegal).respond 0 := by
  simpa [execIllegal] using h.symm

end Sys2Proof.Machine
end

