-- ==== Sys2Proof/Laws/Flags.lean ====
section
/-! SUPPORT. The sticky flags under `raise`. -/

namespace Sys2Proof.Machine

/-- `raise` sets its flag and no other (60_exceptions.md R15, R154). -/
@[simp] theorem State.raise_flag (s : State) (e e' : ErrFlag) :
    (s.raise e).block.flag e' = (s.block.flag e' || decide (e = e')) := by
  cases e <;> cases e' <;> simp [State.raise, Block.flag]

@[simp] theorem Block.reset_flag (e : ErrFlag) : Block.reset.flag e = false := by
  cases e <;> rfl

/-- The causes are told apart by their codes (60_exceptions.md R151). -/
theorem ErrFlag.code_injective {e e' : ErrFlag} (h : e.code = e'.code) : e = e' := by
  cases e <;> cases e' <;> first | rfl | simp [ErrFlag.code] at h

end Sys2Proof.Machine
end

