-- ==== Sys2Proof/Laws/Memory.lean ====
section
/-! SUPPORT. The buffer's memory: a read after a write, and that every operation keeps the canonical
form. -/

namespace Sys2Proof.Machine

theorem Memory.wf_tail (c : Host.Cell) (m : Memory) (h : Memory.wf (c :: m) = true) :
    Memory.wf m = true := by
  cases m with
  | nil => rfl
  | cons d rest => simp only [Memory.wf, Bool.and_eq_true] at h; exact h.2

/-- Every address of a canonical tail lies above the head's. -/
theorem Memory.lookup_none_of_lt (m : Memory) (c : Host.Cell) (a : Nat)
    (h : Memory.wf (c :: m) = true) (ha : a ≤ c.1) : Memory.lookup m a = none := by
  induction m generalizing c with
  | nil => rfl
  | cons d rest ih =>
    simp only [Memory.wf, Bool.and_eq_true, decide_eq_true_eq] at h
    have hne : d.1 ≠ a := by omega
    simp only [Memory.lookup, if_neg hne]
    exact ih d h.2 (by omega)

@[simp] theorem Memory.lookup_store_same (m : Memory) (a : Nat) (v : Byte) :
    Memory.lookup (Memory.store m a v) a = some v := by
  induction m with
  | nil => simp [Memory.store, Memory.lookup]
  | cons c rest ih =>
    by_cases h1 : a < c.1
    · simp [Memory.store, Memory.lookup, h1]
    · by_cases h2 : a = c.1
      · simp [Memory.store, Memory.lookup, h2]
      · simp [Memory.store, Memory.lookup, h1, h2, Ne.symm h2, ih]

theorem Memory.lookup_store_other (m : Memory) (a b : Nat) (v : Byte) (h : b ≠ a) :
    Memory.lookup (Memory.store m a v) b = Memory.lookup m b := by
  induction m with
  | nil => simp [Memory.store, Memory.lookup, Ne.symm h]
  | cons c rest ih =>
    by_cases h1 : a < c.1
    · simp [Memory.store, Memory.lookup, h1, Ne.symm h]
    · by_cases h2 : a = c.1
      · subst h2; simp [Memory.store, Memory.lookup, Ne.symm h]
      · simp only [Memory.store, h1, h2, if_false, Memory.lookup, ih]

/-- The head of a written memory is the written cell or the old head. -/
theorem Memory.store_head (m : Memory) (a : Nat) (v : Byte) (c : Host.Cell)
    (hm : Memory.wf (c :: m) = true) (ha : c.1 < a) : Memory.wf (c :: Memory.store m a v) = true := by
  induction m generalizing c with
  | nil => simp [Memory.store, Memory.wf, ha]
  | cons d rest ih =>
    have hd := Memory.wf_tail c (d :: rest) hm
    simp only [Memory.wf, Bool.and_eq_true, decide_eq_true_eq] at hm
    by_cases h1 : a < d.1
    · simp [Memory.store, Memory.wf, h1, ha, hd]
    · by_cases h2 : a = d.1
      · subst h2
        cases rest with
        | nil => simp [Memory.store, Memory.wf, ha]
        | cons e r =>
          simp only [Memory.wf, Bool.and_eq_true, decide_eq_true_eq] at hd
          simp [Memory.store, Memory.wf, ha, hd]
      · simp [Memory.store, Memory.wf, h1, h2, hm.1, ih d hd (by omega)]

theorem Memory.store_wf (m : Memory) (a : Nat) (v : Byte) (h : Memory.wf m = true) :
    Memory.wf (Memory.store m a v) = true := by
  cases m with
  | nil => rfl
  | cons c rest =>
    by_cases h1 : a < c.1
    · simp [Memory.store, Memory.wf, h1, h]
    · by_cases h2 : a = c.1
      · subst h2
        cases rest with
        | nil => simp [Memory.store, Memory.wf]
        | cons d r => simpa [Memory.store, Memory.wf] using h
      · simp only [Memory.store, h1, h2, if_false]
        exact Memory.store_head rest a v c h (by omega)

theorem Memory.storeSample_wf (m : Memory) (k : Nat) (v : Sample) (h : Memory.wf m = true) :
    Memory.wf (Memory.storeSample m k v) = true :=
  Memory.store_wf _ _ _ (Memory.store_wf _ _ _ h)

@[simp] theorem Memory.lookup_storeSample_low (m : Memory) (k : Nat) (v : Sample) :
    Memory.lookup (Memory.storeSample m k v) (2 * k) = some (sampleLow v) := by
  rw [Memory.storeSample, Memory.lookup_store_other _ _ _ _ (by omega), Memory.lookup_store_same]

@[simp] theorem Memory.lookup_storeSample_high (m : Memory) (k : Nat) (v : Sample) :
    Memory.lookup (Memory.storeSample m k v) (2 * k + 1) = some (sampleHigh v) := by
  rw [Memory.storeSample, Memory.lookup_store_same]

theorem Memory.lookup_storeSample_other (m : Memory) (k a : Nat) (v : Sample)
    (h0 : a ≠ 2 * k) (h1 : a ≠ 2 * k + 1) :
    Memory.lookup (Memory.storeSample m k v) a = Memory.lookup m a := by
  rw [Memory.storeSample, Memory.lookup_store_other _ _ _ _ h1, Memory.lookup_store_other _ _ _ _ h0]

/-- What one byte of `BUF` reads as depends on the memory and the draw alone. -/
theorem State.bufByte_congr {s t : State} (hb : t.block.buf = s.block.buf) (hd : t.bufDraw = s.bufDraw)
    (a : Nat) : t.bufByte a = s.bufByte a := by
  simp [State.bufByte, hb, hd]

theorem State.bufEntry_congr {s t : State} (hb : t.block.buf = s.block.buf) (hd : t.bufDraw = s.bufDraw)
    (k : Nat) : t.bufEntry k = s.bufEntry k := by
  simp [State.bufEntry, State.bufByte_congr hb hd]

/-! An update that leaves the buffer and the draw leaves every byte and every entry. -/

@[simp] theorem State.respond_bufByte (s : State) (v : Word) (a : Nat) : (s.respond v).bufByte a = s.bufByte a :=
  State.bufByte_congr (by simp) (by simp) _
@[simp] theorem State.respond_bufEntry (s : State) (v : Word) (k : Nat) : (s.respond v).bufEntry k = s.bufEntry k :=
  State.bufEntry_congr (by simp) (by simp) _
@[simp] theorem State.holdSample_bufByte (s : State) (w : Word) (a : Nat) : (s.holdSample w).bufByte a = s.bufByte a :=
  State.bufByte_congr (by simp) (by simp) _
@[simp] theorem State.holdSample_bufEntry (s : State) (w : Word) (k : Nat) : (s.holdSample w).bufEntry k = s.bufEntry k :=
  State.bufEntry_congr (by simp) (by simp) _
@[simp] theorem State.passTurn_bufByte (s : State) (a : Nat) : (s.passTurn).bufByte a = s.bufByte a :=
  State.bufByte_congr (by simp) (by simp) _
@[simp] theorem State.passTurn_bufEntry (s : State) (k : Nat) : (s.passTurn).bufEntry k = s.bufEntry k :=
  State.bufEntry_congr (by simp) (by simp) _
@[simp] theorem State.setRate_bufByte (s : State) (r : Word) (a : Nat) : (s.setRate r).bufByte a = s.bufByte a :=
  State.bufByte_congr (by simp) (by simp) _
@[simp] theorem State.setRate_bufEntry (s : State) (r : Word) (k : Nat) : (s.setRate r).bufEntry k = s.bufEntry k :=
  State.bufEntry_congr (by simp) (by simp) _
@[simp] theorem State.setSeconds_bufByte (s : State) (d : Word) (a : Nat) : (s.setSeconds d).bufByte a = s.bufByte a :=
  State.bufByte_congr (by simp) (by simp) _
@[simp] theorem State.setSeconds_bufEntry (s : State) (d : Word) (k : Nat) : (s.setSeconds d).bufEntry k = s.bufEntry k :=
  State.bufEntry_congr (by simp) (by simp) _
@[simp] theorem State.setPhase_bufByte (s : State) (p : Phase) (a : Nat) : (s.setPhase p).bufByte a = s.bufByte a :=
  State.bufByte_congr (by simp) (by simp) _
@[simp] theorem State.setPhase_bufEntry (s : State) (p : Phase) (k : Nat) : (s.setPhase p).bufEntry k = s.bufEntry k :=
  State.bufEntry_congr (by simp) (by simp) _
@[simp] theorem State.countWord_bufByte (s : State) (a : Nat) : (s.countWord).bufByte a = s.bufByte a :=
  State.bufByte_congr (by simp) (by simp) _
@[simp] theorem State.countWord_bufEntry (s : State) (k : Nat) : (s.countWord).bufEntry k = s.bufEntry k :=
  State.bufEntry_congr (by simp) (by simp) _
@[simp] theorem State.beginCapture_bufByte (s : State) (p : Nat) (a : Nat) : (s.beginCapture p).bufByte a = s.bufByte a :=
  State.bufByte_congr (by simp) (by simp) _
@[simp] theorem State.beginCapture_bufEntry (s : State) (p : Nat) (k : Nat) : (s.beginCapture p).bufEntry k = s.bufEntry k :=
  State.bufEntry_congr (by simp) (by simp) _
@[simp] theorem State.raise_bufByte (s : State) (e : ErrFlag) (a : Nat) : (s.raise e).bufByte a = s.bufByte a :=
  State.bufByte_congr (by simp) (by simp) _
@[simp] theorem State.raise_bufEntry (s : State) (e : ErrFlag) (k : Nat) : (s.raise e).bufEntry k = s.bufEntry k :=
  State.bufEntry_congr (by simp) (by simp) _

/-- A byte outside entry `k` reads as before. -/
theorem State.setBufEntry_bufByte_other (s : State) (k a : Nat) (v : Sample)
    (h0 : a ≠ 2 * k) (h1 : a ≠ 2 * k + 1) : (s.setBufEntry k v).bufByte a = s.bufByte a := by
  simp [State.bufByte, Memory.lookup_storeSample_other _ _ _ _ h0 h1]

theorem sampleHigh_append_low (v : Sample) : sampleHigh v ++ sampleLow v = v := by
  rw [sampleHigh, sampleLow, BitVec.extractLsb'_append_extractLsb'_eq_extractLsb' (by rfl)]
  exact BitVec.extractLsb'_eq_self

@[simp] theorem State.setBufEntry_bufEntry_same (s : State) (k : Nat) (v : Sample) :
    (s.setBufEntry k v).bufEntry k = v := by
  simp [State.bufEntry, State.bufByte, sampleHigh_append_low]

theorem State.setBufEntry_bufEntry_other (s : State) (k j : Nat) (v : Sample) (h : j ≠ k) :
    (s.setBufEntry k v).bufEntry j = s.bufEntry j := by
  simp only [State.bufEntry]
  rw [State.setBufEntry_bufByte_other _ _ _ _ (by omega) (by omega),
    State.setBufEntry_bufByte_other _ _ _ _ (by omega) (by omega)]

end Sys2Proof.Machine
end

