-- ==== Sys2Proof/Laws/Invariant.lean ====
section
/-! SUPPORT. A check that evaluates, by which a concrete state is shown to meet R32. -/

namespace Sys2Proof.Machine

/-- `State.Inv` as a computation. -/
def State.invCheck (s : State) : Bool :=
  decide (Config.capLegal s.cap)
    && decide (s.block.valid.toNat ≤ s.block.target.toNat)
    && decide (s.block.target.toNat ≤ s.cap)
    && decide (s.block.rawb.toNat = 4 * s.block.valid.toNat)
    && decide (s.block.phase = .capture → s.block.valid.toNat < s.block.target.toNat)
    && decide (s.block.phase = .done → s.block.valid = s.block.target)
    && decide (s.block.phase ≠ .idle →
        s.block.target.toNat = product s.block.rate s.block.seconds)
    && (List.range (2 * s.block.valid.toNat)).all (fun a => (Memory.lookup s.block.buf a).isSome)
    && Memory.wf s.block.buf
    && s.block.buf.all (fun c => decide (c.1 < 2 * s.cap))

/-- A listed byte stands in the list. -/
theorem Memory.mem_of_lookup (m : Memory) (a : Nat) (h : (Memory.lookup m a).isSome = true) :
    ∃ c ∈ m, c.1 = a := by
  induction m with
  | nil => simp [Memory.lookup] at h
  | cons c rest ih =>
    by_cases hc : c.1 = a
    · exact ⟨c, by simp, hc⟩
    · rw [Memory.lookup, if_neg hc] at h
      obtain ⟨d, hd, hda⟩ := ih h
      exact ⟨d, by simp [hd], hda⟩

theorem State.inv_of_check {s : State} (h : s.invCheck = true) : s.Inv := by
  simp only [State.invCheck, Bool.and_eq_true, decide_eq_true_eq, List.all_eq_true,
    List.mem_range] at h
  obtain ⟨⟨⟨⟨⟨⟨⟨⟨⟨h1, h2⟩, h3⟩, h4⟩, h5⟩, h6⟩, h7⟩, h8⟩, h9⟩, h10⟩ := h
  refine ⟨h1, h2, h3, h4, h5, h6, h7, h8, h9, fun a ha => ?_⟩
  obtain ⟨c, hc, rfl⟩ := Memory.mem_of_lookup _ _ ha
  exact h10 c hc

end Sys2Proof.Machine
end

