-- ==== Sys2Proof/Laws/PerInstr.lean ====
section
/-! SUPPORT. A statement for every instruction as syntax: the offer that encodes it matches its row of
the opcode table (30_encoding.md R60, R65). -/

namespace Sys2Proof.Laws.TablePattern

/-- The table's row: the input's width, the match and the mask. -/
def row : Instr → Nat × Nat × Nat
  | .nop _ => (40, 0x0000000000, 0xFF00000000)
  | .setRate _ => (40, 0x0100000000, 0xFF00000000)
  | .setSeconds _ => (40, 0x0200000000, 0xFF00000000)
  | .start _ => (40, 0x0300000000, 0xFF00000000)
  | .release _ => (40, 0x0400000000, 0xFF00000000)
  | .readStatus _ => (40, 0x0500000000, 0xFF00000000)
  | .readReg _ => (40, 0x0600000000, 0xFF00000000)
  | .readPayload _ => (40, 0x0700000000, 0xFF00000000)
  | .narrow _ => (40, 0x0800000000, 0xFF00000000)
  | .push _ => (32, 0x00000000, 0x00000000)
  | .reset => (0, 0x0, 0x0)

/-- The width of an offer's input and its bits. -/
def bits : Offer → Nat × Nat
  | .command c => (40, c.toNat)
  | .sample w => (32, w.toNat)
  | .reset => (0, 0)

/-- The offer has its row's width, and its bits under the mask are the row's match. -/
def Statement (i : Instr) : Prop :=
  (bits (encode i)).1 = (row i).1 ∧ (bits (encode i)).2 &&& (row i).2.2 = (row i).2.1

/-- The opcode of a command, seen through the table's mask. -/
theorem commandWord_masked (op : BitVec 8) (arg : Word) :
    (commandWord op arg).toNat &&& 0xFF00000000 = op.toNat * 2 ^ 32 := by
  have hop := op.isLt
  have harg := arg.isLt
  rw [commandWord_toNat, show 0xFF00000000 = (2 ^ 8 - 1) <<< 32 by rfl, ← Nat.shiftLeft_eq op.toNat,
    Nat.shiftLeft_add_eq_or_of_lt harg]
  apply Nat.eq_of_testBit_eq
  intro i
  simp only [Nat.testBit_and, Nat.testBit_or, Nat.testBit_shiftLeft, Nat.testBit_two_pow_sub_one]
  by_cases hi : 32 ≤ i
  · have h0 : arg.toNat.testBit i = false :=
      Nat.testBit_lt_two_pow (Nat.lt_of_lt_of_le harg (Nat.pow_le_pow_right (by omega) hi))
    by_cases h8 : i - 32 < 8
    · simp [hi, h0, h8]
    · have h1 : op.toNat.testBit (i - 32) = false :=
        Nat.testBit_lt_two_pow (Nat.lt_of_lt_of_le hop (Nat.pow_le_pow_right (by omega) (by omega)))
      simp [h0, h1]
  · simp [hi]

theorem nop (arg : Word) : Statement (.nop arg) := ⟨rfl, commandWord_masked _ _⟩
theorem setRate (rate : Word) : Statement (.setRate rate) := ⟨rfl, commandWord_masked _ _⟩
theorem setSeconds (seconds : Word) : Statement (.setSeconds seconds) := ⟨rfl, commandWord_masked _ _⟩
theorem start (arg : Word) : Statement (.start arg) := ⟨rfl, commandWord_masked _ _⟩
theorem release (arg : Word) : Statement (.release arg) := ⟨rfl, commandWord_masked _ _⟩
theorem readStatus (arg : Word) : Statement (.readStatus arg) := ⟨rfl, commandWord_masked _ _⟩
theorem readReg (sel : Word) : Statement (.readReg sel) := ⟨rfl, commandWord_masked _ _⟩
theorem readPayload (addr : Word) : Statement (.readPayload addr) := ⟨rfl, commandWord_masked _ _⟩
theorem narrow (word : Word) : Statement (.narrow word) := ⟨rfl, commandWord_masked _ _⟩
theorem push (word : Word) : Statement (.push word) := ⟨rfl, Nat.and_zero _⟩
theorem reset : Statement .reset := ⟨rfl, rfl⟩

end Sys2Proof.Laws.TablePattern
end

