-- ==== Sys2Proof/Laws/Step.lean ====
section
/-! SUPPORT. Everything a turn can do, said once. -/

namespace Sys2Proof.Machine

variable {s s' t : State}

/-- What an agent's turn takes. -/
theorem State.takeOffer_cases {o : Offer} (h : s.takeOffer = some (o, s')) :
    (∃ c cs ts, o = .command c ∧ s.turns = .host :: ts ∧ s.commands = c :: cs ∧
      s' = { s with turns := ts, commands := cs }) ∨
    (∃ w ws ts, o = .sample w ∧ s.turns = .source :: ts ∧ s.samples = w :: ws ∧
      s' = { s with turns := ts, samples := ws }) ∨
    (∃ ts, o = .reset ∧ s.turns = .reset :: ts ∧ s' = { s with turns := ts }) := by
  simp only [State.takeOffer] at h
  split at h
  · simp at h
  · rename_i ts ht
    split at h
    · simp at h
    · rename_i c cs hc
      simp only [Option.some.injEq, Prod.mk.injEq] at h
      exact .inl ⟨c, cs, ts, h.1.symm, ht, hc, h.2.symm⟩
  · rename_i ts ht
    split at h
    · simp at h
    · rename_i w ws hw
      simp only [Option.some.injEq, Prod.mk.injEq] at h
      exact .inr (.inl ⟨w, ws, ts, h.1.symm, ht, hw, h.2.symm⟩)
  · rename_i ts ht
    simp only [Option.some.injEq, Prod.mk.injEq] at h
    exact .inr (.inr ⟨ts, h.1.symm, ht, h.2.symm⟩)

/-- Taking an offer leaves the block, its capacity and the host's responses as they are. -/
theorem State.takeOffer_frame {o : Offer} (h : s.takeOffer = some (o, s')) :
    s'.block = s.block ∧ s'.cap = s.cap ∧ s'.responses = s.responses ∧ s'.bufDraw = s.bufDraw := by
  obtain ⟨c, cs, ts, -, -, -, rfl⟩ | ⟨w, ws, ts, -, -, -, rfl⟩ | ⟨ts, -, -, rfl⟩ :=
    State.takeOffer_cases h <;> simp

/-- A step is an idle turn, an instruction, or a command with an illegal opcode. -/
theorem step_cases (h : step s = .next t) :
    (s.takeOffer = none ∧ t = s.passTurn) ∨
    (∃ o i s', s.takeOffer = some (o, s') ∧ decode o = .ok i ∧ exec i s' = .next t) ∨
    (∃ c op s', s.takeOffer = some (.command c, s') ∧ decode (.command c) = .error (.illegalOpcode op) ∧
      t = (s'.raise .illegal).respond 0) := by
  simp only [step] at h
  split at h
  · rename_i o s' ho
    simp only [runOffer] at h
    split at h
    · rename_i i hi
      exact .inr (.inl ⟨o, i, s', ho, hi, h⟩)
    · rename_i op hop
      cases o with
      | command c => exact .inr (.inr ⟨c, op, s', ho, hop, execIllegal_cases h⟩)
      | sample w => simp at hop
      | reset => simp at hop
  · rename_i ho
    exact .inl ⟨ho, by simpa using h.symm⟩

end Sys2Proof.Machine
end

