-- ==== Sys2Proof/Machine/Assembler.lean ====
section
/-! DEFINITION. The text of a program line (30_encoding.md R68, R69): characters to lines (DESIGN CHOICE,
log entry 13). -/

namespace Sys2Proof.Machine

/-- A line's words: spaces and commas separate them. -/
def tokensFrom : List Char → List Char → List (List Char)
  | [], cur => if cur.isEmpty then [] else [cur.reverse]
  | c :: rest, cur =>
    if c = ' ' ∨ c = ',' then
      if cur.isEmpty then tokensFrom rest [] else cur.reverse :: tokensFrom rest []
    else tokensFrom rest (c :: cur)

/-- The words of a line. -/
def tokens (text : List Char) : List (List Char) := tokensFrom text []

/-- A digit's value in a base. -/
def digit (base : Nat) (c : Char) : Option Nat :=
  let v :=
    if 48 ≤ c.toNat ∧ c.toNat ≤ 57 then c.toNat - 48
    else if 97 ≤ c.toNat ∧ c.toNat ≤ 102 then c.toNat - 87
    else if 65 ≤ c.toNat ∧ c.toNat ≤ 70 then c.toNat - 55
    else base
  if v < base then some v else none

/-- A number read digit by digit after the value `acc`. -/
def digitsFrom (base : Nat) : List Char → Nat → Option Nat
  | [], acc => some acc
  | c :: rest, acc =>
    match digit base c with
    | some v => digitsFrom base rest (acc * base + v)
    | none => none

/-- `operand ::= decimal | "0x" hex` (R68). -/
def parseOperand : List Char → Option Nat
  | [] => none
  | ['0', 'x'] => none
  | '0' :: 'x' :: rest => digitsFrom 16 rest 0
  | text => digitsFrom 10 text 0

/-- The mnemonics of R65. -/
def mnemonicNames : List (List Char × Mnemonic) :=
  [(['N', 'O', 'P'], .nop),
   (['S', 'E', 'T', '_', 'R', 'A', 'T', 'E'], .setRate),
   (['S', 'E', 'T', '_', 'S', 'E', 'C', 'O', 'N', 'D', 'S'], .setSeconds),
   (['S', 'T', 'A', 'R', 'T'], .start),
   (['R', 'E', 'L', 'E', 'A', 'S', 'E'], .release),
   (['R', 'E', 'A', 'D', '_', 'S', 'T', 'A', 'T', 'U', 'S'], .readStatus),
   (['R', 'E', 'A', 'D', '_', 'R', 'E', 'G'], .readReg),
   (['R', 'E', 'A', 'D', '_', 'P', 'A', 'Y', 'L', 'O', 'A', 'D'], .readPayload),
   (['N', 'A', 'R', 'R', 'O', 'W'], .narrow)]

/-- Every word as a number; none where one is no number. -/
def parseOperands : List (List Char) → Option (List Nat)
  | [] => some []
  | t :: rest =>
    match parseOperand t, parseOperands rest with
    | some n, some ns => some (n :: ns)
    | _, _ => none

/-- A line from its first word and its operands. A line whose first word is no mnemonic is refused (R68).
`polls` and `len` are the counts for which the host runs the two host-side loops of R69. R69 does not say
whether `PUSHBLK` may have no words: here it may (DESIGN CHOICE, log entry 17). -/
def parseWords (polls len : Nat) (name : List Char) (args : List Nat) : Option Line :=
  match mnemonicNames.find? (fun e => decide (e.1 = name)), args with
  | some e, [] => some (.command e.2 none)
  | some e, [n] => some (.command e.2 (some n))
  | some _, _ => none
  | none, _ =>
    if name = ['P', 'U', 'S', 'H', 'B', 'L', 'K'] then some (.pushBlock args)
    else
      match args with
      | [] =>
        if name = ['R', 'E', 'S', 'E', 'T'] then some .reset
        else if name = ['W', 'A', 'I', 'T', 'D', 'O', 'N', 'E'] then some (.waitDone polls)
        else if name = ['R', 'E', 'A', 'D', 'H', 'D', 'R'] then some .readHdr
        else if name = ['R', 'E', 'A', 'D', 'A', 'L', 'L'] then some (.readAll len)
        else none
      | [n] => if name = ['P', 'U', 'S', 'H'] then some (.push n) else none
      | [n, m] =>
        if name = ['C', 'M', 'D'] then some (.cmd n m)
        else if name = ['C', 'O', 'N', 'F', 'I', 'G'] then some (.config n m)
        else if name = ['C', 'A', 'P', 'T', 'U', 'R', 'E'] then some (.capture n m)
        else none
      | _ => none

/-- One line of text; a comment starts with a semicolon (R68). -/
def parseLine (polls len : Nat) (text : List Char) : Option Line :=
  match text with
  | ';' :: _ => some .comment
  | _ =>
    match tokens text with
    | [] => none
    | name :: rest =>
      match parseOperands rest with
      | some args => parseWords polls len name args
      | none => none

end Sys2Proof.Machine
end

