-- ==== Sys2Proof/Tests/Slice0.lean ====
section
/-! SUPPORT. Small tests whose expected results are the spec's own vectors (95_test_vectors.md) and rules,
and for every statement with hypotheses a state and operands that meet them. -/

namespace Sys2Proof.Tests

open Sys2Proof.Machine

/-! ## Helpers -/

/-- The next state of an outcome. -/
def next? (o : Host.Outcome State Fault Refusal) : Option State :=
  match o with
  | .next t => some t
  | .fault _ => none
  | .refused _ => none

/-- `RATE = 3`, `SECONDS = 1`, `TARGET = 3`, `CAP = 48000` in `CAPTURE` after `n` accepted words. -/
def capturing (n : Nat) (buf : Memory) : State :=
  { State.reset with block := { Block.reset with
      phase := .capture, rate := 3, seconds := 1, target := 3,
      valid := BitVec.ofNat 32 n, rawb := BitVec.ofNat 32 (4 * n), buf := buf } }

/-- The buffer after two words: `BUF[0] = 0x8000`, `BUF[1] = 0xFFFF`. -/
def twoSamples : Memory := [(0, 0x00), (1, 0x80), (2, 0xFF), (3, 0xFF)]

/-- `DONE` with `RATE = 2`, `SECONDS = 1` and two samples (95_test_vectors.md section 2.4). -/
def finished : State :=
  { State.reset with block := { Block.reset with
      phase := .done, rate := 2, seconds := 1, target := 2, valid := 2, rawb := 8,
      buf := twoSamples } }

/-- `IDLE` with a configuration. -/
def configured (r d : Word) : State :=
  { State.reset with block := { Block.reset with rate := r, seconds := d } }

theorem capturing_inv : (capturing 2 twoSamples).Inv := State.inv_of_check (by decide)
theorem capturing_start_inv : (capturing 0 []).Inv := State.inv_of_check (by decide)
theorem finished_inv : finished.Inv := State.inv_of_check (by decide)
theorem configured_inv : (configured 16000 3).Inv := State.inv_of_check (by decide)

/-- The response of one instruction. -/
def response? (i : Instr) (s : State) : Option Word :=
  match next? (exec i s) with
  | some t => t.responses.getLast?
  | none => none

/-! ## WellFormed: an ill-formed term for each check -/

theorem test_wf_operand_too_wide : (Line.push (2 ^ 32)).wellFormed = false := by decide
theorem test_wf_command_operand : (Line.command .setRate (some (2 ^ 32))).wellFormed = false := by decide
/-- The model's choice, log entry 16. -/
theorem test_wf_opcode_too_wide : (Line.cmd 256 0).wellFormed = false := by decide
theorem test_wf_cmd_operand : (Line.cmd 0x42 (2 ^ 32)).wellFormed = false := by decide
theorem test_wf_config : (Line.config 1 (2 ^ 32)).wellFormed = false := by decide
theorem test_wf_capture : (Line.capture (2 ^ 32) 1).wellFormed = false := by decide
theorem test_wf_block : (Line.pushBlock [0, 2 ^ 32]).wellFormed = false := by decide
theorem test_wf_read_all : (Line.readAll (2 ^ 32 + 1)).wellFormed = false := by decide
theorem test_wf_capacity : ¬ Config.capLegal 0 ∧ ¬ Config.capLegal (2 ^ 30) := by decide
theorem test_assemble_refuses : assemble [.reset, .push (2 ^ 32)] = none := by decide

/-! ## Decoding: words written from 30_encoding.md R61, R65, R70 -/

theorem test_decode_nop : decodeTableWord 40 0x00FFFFFFFF = some (.nop 0xFFFFFFFF) := by decide
theorem test_decode_setRate : decodeTableWord 40 0x0100003E80 = some (.setRate 16000) := by decide
theorem test_decode_setSeconds : decodeTableWord 40 0x0200000003 = some (.setSeconds 3) := by decide
theorem test_decode_start : decodeTableWord 40 0x0300000000 = some (.start 0) := by decide
theorem test_decode_release : decodeTableWord 40 0x0400000000 = some (.release 0) := by decide
theorem test_decode_readStatus : decodeTableWord 40 0x0500000000 = some (.readStatus 0) := by decide
theorem test_decode_readReg : decodeTableWord 40 0x0600000005 = some (.readReg 5) := by decide
theorem test_decode_readPayload : decodeTableWord 40 0x070001772C = some (.readPayload 96044) := by decide
theorem test_decode_narrow : decodeTableWord 40 0x08FFFF0000 = some (.narrow 0xFFFF0000) := by decide
theorem test_decode_push : decodeTableWord 32 0x12345678 = some (.push 0x12345678) := by decide
theorem test_decode_reset : decodeTableWord 0 0 = some .reset := by decide
/-- R66: `0x09`, `0x10` and `0xFF` are illegal. -/
theorem test_decode_illegal :
    decodeTableWord 40 0x0900000000 = none ∧ decodeTableWord 40 0x1000000000 = none ∧
    decodeTableWord 40 0xFF12345678 = none := by decide
/-- `CAPTURE 2, 2` and `CMD 0x42, 0` (R69, P1, P3). -/
theorem test_assemble_lines :
    assemble [.capture 2 2, .comment, .cmd 0x42 0, .push 0x12345678] =
      some [.command 0x0100000002, .command 0x0200000002, .command 0x0300000000,
            .command 0x4200000000, .sample 0x12345678] := by decide

theorem test_parse_command :
    parseLine 0 0 "SET_RATE 16000".toList = some (.command .setRate (some 16000)) := by decide
theorem test_parse_hex :
    parseLine 0 0 "PUSH 0xFFFF0000".toList = some (.push 0xFFFF0000) := by decide
/-- The model's choice, log entry 17. -/
theorem test_empty_block :
    parseLine 0 0 "PUSHBLK".toList = some (.pushBlock []) ∧ assemble [.pushBlock []] = some [] := by
  decide
theorem test_parse_cmd : parseLine 0 0 "CMD 0x42, 0".toList = some (.cmd 0x42 0) := by decide
theorem test_parse_comment : parseLine 0 0 "; any text".toList = some .comment := by decide
/-- R68: a line whose mnemonic is not in R65 and is not `PUSH` or `RESET` is refused. -/
theorem test_parse_refuses : parseLine 0 0 "HALT 1".toList = none := by decide

/-! ## One step of each instruction -/

/-- 95_test_vectors.md section 2.5: any state, `NOP`. -/
theorem test_nop : response? (.nop 0xFFFFFFFF) finished = some 0 := by decide
theorem test_setRate_idle :
    (next? (exec (.setRate 16000) State.reset)).map (·.block.rate) = some 16000 := by decide
theorem test_setRate_capture :
    (next? (exec (.setRate 8000) (capturing 0 []))).map (fun t => (t.block.rate, t.block.errCfglock))
      = some (3, true) := by decide
theorem test_setSeconds_idle :
    (next? (exec (.setSeconds 3) State.reset)).map (·.block.seconds) = some 3 := by decide
theorem test_setSeconds_done :
    (next? (exec (.setSeconds 5) finished)).map (fun t => (t.block.seconds, t.block.errCfglock))
      = some (1, true) := by decide
/-- The product `2^32` is not wrapped. -/
theorem test_start_no_wrap :
    (next? (exec (.start 0) (configured 65536 65536))).map (fun t => (t.block.phase, t.block.errCap))
      = some (.idle, true) := by decide
theorem test_start_reference :
    (next? (exec (.start 0) (configured 16000 3))).map
      (fun t => (t.block.phase, t.block.target, t.block.errCap)) = some (.capture, 48000, false) := by
  decide
theorem test_release_done :
    (next? (exec (.release 0) finished)).map (fun t => (t.block.phase, t.block.valid))
      = some (.idle, 2) := by decide
theorem test_release_capture :
    (next? (exec (.release 0) (capturing 2 twoSamples))).map (·.block.phase) = some .capture := by decide
theorem test_readStatus_capture : response? (.readStatus 0) (capturing 0 []) = some 0x00000005 := by
  decide
/-- R126's example: `DONE` after an `ERR_PHASE`. -/
theorem test_readStatus_done_error :
    response? (.readStatus 0) (finished.raise .phase) = some 0x0000080A := by decide
theorem test_readReg_length : response? (.readReg 5) State.reset = some 44 := by decide
theorem test_readReg_illegal :
    (next? (exec (.readReg 7) State.reset)).map (fun t => (t.responses, t.block.errIllegal))
      = some ([0], true) := by decide
/-- Section 2.4: the samples' bytes at 44 to 47. -/
theorem test_readPayload_samples :
    [44, 45, 46, 47].map (fun a => response? (.readPayload a) finished)
      = [some 0x00, some 0x80, some 0xFF, some 0xFF] := by decide
/-- Section 2.4: the phase is checked before the range. -/
theorem test_readPayload_phase_first :
    (next? (exec (.readPayload 0xFFFFFFFF) State.reset)).map
      (fun t => (t.block.errPhase, t.block.errRange)) = some (true, false) := by decide
theorem test_narrow_negative : response? (.narrow 0xFFFF0000) State.reset = some 0xFFFFFFFF := by decide
theorem test_narrow_no_rounding : response? (.narrow 0x8000FFFF) finished = some 0xFFFF8000 := by decide
/-- Program P3, line 11: the push that reaches the target completes the capture. -/
theorem test_push_last :
    (next? (exec (.push 0x7FFFFFFF) (capturing 2 twoSamples))).map
      (fun t => (t.bufEntry 2, t.block.valid, t.block.rawb, t.block.phase))
      = some (0x7FFF, 3, 12, .done) := by decide
theorem test_reset_in_capture :
    (next? (exec .reset (capturing 2 twoSamples))).map (fun t => (t.block == Block.reset))
      = some true := by decide
/-- R128's example: `CMD 0x42, 0` in `CAPTURE`. -/
theorem test_illegal_command :
    (next? (step ((capturing 2 twoSamples).withFetchWord 40 0x4200000000))).map
      (fun t => (t.block.errIllegal, t.block.phase, t.responses)) = some (true, .capture, [0]) := by
  decide
/-- A word offered right after reset is held: it stays with the source. -/
theorem test_push_held :
    (next? (step (State.reset.withFetchWord 32 0x55550000))).map (fun t => (t.samples, t.block == Block.reset))
      = some ([0x55550000], true) := by decide
theorem test_reset_turn :
    (next? (step (finished.withFetchWord 0 0))).map (·.block.phase) = some .idle := by decide

/-! ## The header: W6 and the rows of section 2.3 -/

theorem test_header_reference :
    hdr 16000 48000 =
      [0x52, 0x49, 0x46, 0x46, 0x24, 0x77, 0x01, 0x00, 0x57, 0x41, 0x56, 0x45, 0x66, 0x6D, 0x74, 0x20,
       0x10, 0x00, 0x00, 0x00, 0x01, 0x00, 0x01, 0x00, 0x80, 0x3E, 0x00, 0x00, 0x00, 0x7D, 0x00, 0x00,
       0x02, 0x00, 0x10, 0x00, 0x64, 0x61, 0x74, 0x61, 0x00, 0x77, 0x01, 0x00] := by decide
theorem test_header_wraps :
    (hdr 0xFFFFFFFF 5).drop 24 =
      [0xFF, 0xFF, 0xFF, 0xFF, 0xFE, 0xFF, 0xFF, 0xFF, 0x02, 0x00, 0x10, 0x00,
       0x64, 0x61, 0x74, 0x61, 0x0A, 0x00, 0x00, 0x00] := by decide

/-! ## Witnesses: for every statement with hypotheses, values that meet them, at the clauses' boundaries -/

/-- The host's turn with one command pending. -/
def hostTurn (c : CommandWord) (s : State) : State := { s with turns := [.host], commands := [c] }

/-- The source's turn with one word pending. -/
def sourceTurn (w : Word) (s : State) : State := { s with turns := [.source], samples := [w] }

/-- `BUF` smaller than `VALID`: no run reaches it. -/
def overfull (p : Phase) : State :=
  { finished with cap := 1, block := { finished.block with phase := p } }

theorem witness_EncodeOfDecodeIsIdentity :
    decode (.command 0x0100003E80) = .ok (.setRate 16000) := rfl

theorem witness_OpcodeMapIsComplete :
    (0x00FFFFFFFF#40).extractLsb' 32 8 = 0x00#8 ∧ (0x0100003E80#40).extractLsb' 32 8 = 0x01#8 ∧
    (0x0200000003#40).extractLsb' 32 8 = 0x02#8 ∧ (0x0300000000#40).extractLsb' 32 8 = 0x03#8 ∧
    (0x0400000000#40).extractLsb' 32 8 = 0x04#8 ∧ (0x0500000000#40).extractLsb' 32 8 = 0x05#8 ∧
    (0x0600000005#40).extractLsb' 32 8 = 0x06#8 ∧ (0x070000002C#40).extractLsb' 32 8 = 0x07#8 ∧
    (0x08FFFF0000#40).extractLsb' 32 8 = 0x08#8 ∧
    9 ≤ ((0x0900000000#40).extractLsb' 32 8).toNat ∧ 9 ≤ ((0xFF12345678#40).extractLsb' 32 8).toNat := by
  decide

theorem witness_SetRateWritesOnlyInIdle :
    State.reset.block.phase = .idle ∧ (capturing 0 []).block.phase ≠ .idle ∧
    finished.block.phase ≠ .idle := by decide

theorem witness_SetSecondsWritesOnlyInIdle :
    State.reset.block.phase = .idle ∧ (capturing 0 []).block.phase ≠ .idle ∧
    finished.block.phase ≠ .idle := by decide

/-- The product at `CAP + 1`, at 0, at 1 and at `CAP`, and the two other phases. -/
theorem witness_StartBeginsOneCapture :
    ((configured 48001 1).block.phase = .idle ∧ (configured 48001 1).cap < 48001 * 1) ∧
    ((configured 0 3).block.phase = .idle ∧ (0#32).toNat * (3#32).toNat = 0) ∧
    ((configured 1 1).block.phase = .idle ∧ Config.capLegal (configured 1 1).cap ∧
      0 < 1 * 1 ∧ 1 * 1 ≤ (configured 1 1).cap) ∧
    ((configured 16000 3).block.phase = .idle ∧ 16000 * 3 ≤ (configured 16000 3).cap) ∧
    (capturing 0 []).block.phase ≠ .idle ∧ finished.block.phase ≠ .idle := by decide

theorem witness_ReleaseDiscardsPayload :
    finished.block.phase = .done ∧ State.reset.block.phase ≠ .done ∧
    (capturing 0 []).block.phase ≠ .done := by decide

theorem witness_ReadStatusRespondsStatusWord :
    State.reset.noError = true ∧ (capturing 0 []).noError = true ∧ finished.noError = true := by decide

theorem witness_ReadRegRespondsRegister :
    finished.block.valid.toNat ≤ Config.capMax ∧ Config.capLegal finished.cap ∧
    7 ≤ (7#32).toNat ∧ 7 ≤ (0xFFFFFFFF#32).toNat := by decide

theorem witness_IllegalOpcodeSetsFlag :
    (hostTurn 0x0900000000 finished).turns = [.host] ∧
    (hostTurn 0x0900000000 finished).commands = [0x0900000000] ∧
    9 ≤ ((0x0900000000#40).extractLsb' 32 8).toNat := by decide

theorem witness_NarrowingIdentities :
    (0x80000000#32).getLsbD 31 = true ∧ (0xFFFF0000#32).getLsbD 31 = true := by decide

theorem witness_PushStoresNarrowedSample :
    ((capturing 0 []).Inv ∧ (capturing 0 []).block.phase = .capture) ∧
    ((capturing 2 twoSamples).Inv ∧ (capturing 2 twoSamples).block.phase = .capture) :=
  ⟨⟨capturing_start_inv, rfl⟩, ⟨capturing_inv, rfl⟩⟩

theorem witness_PushAcceptedExactlyWhenReady :
    ((sourceTurn 5 State.reset).turns = [.source] ∧ (sourceTurn 5 State.reset).samples = [5] ∧
      (sourceTurn 5 State.reset).block.ready = false) ∧
    ((sourceTurn 5 (capturing 2 twoSamples)).block.ready = true ∧
      (sourceTurn 5 (capturing 2 twoSamples)).Inv) :=
  ⟨⟨rfl, rfl, rfl⟩, rfl, State.inv_of_check (by decide)⟩

theorem witness_PaddingHalfIsIgnored :
    (0x00010000#32).extractLsb' 16 16 = (0x0001FFFF#32).extractLsb' 16 16 ∧
    (capturing 0 []).block.phase = .capture := by decide

/-- No word, some words, and exactly the target. -/
theorem witness_CaptureTakesExactlyTarget :
    (capturing 0 []).Inv ∧ (capturing 0 []).block.phase = .capture ∧
    (capturing 0 []).block.valid.toNat + ([] : List Word).length ≤ (capturing 0 []).block.target.toNat ∧
    (capturing 0 []).block.valid.toNat + ([1, 2] : List Word).length
      ≤ (capturing 0 []).block.target.toNat ∧
    (capturing 0 []).block.valid.toNat + ([1, 2, 3] : List Word).length
      = (capturing 0 []).block.target.toNat :=
  ⟨capturing_start_inv, rfl, by decide, by decide, by decide⟩

/-- The empty capture and one of three words. -/
theorem witness_WholeCaptureYieldsPayload :
    (configured 16000 3).Inv ∧ (configured 16000 3).block.phase = .idle ∧
    ((0#32).toNat * (1#32).toNat ≤ (configured 16000 3).cap ∧
      ([] : List Word).length = (0#32).toNat * (1#32).toNat) ∧
    ((3#32).toNat * (1#32).toNat ≤ (configured 16000 3).cap ∧
      ([1, 2, 3] : List Word).length = (3#32).toNat * (1#32).toNat) :=
  ⟨configured_inv, rfl, by decide, by decide⟩

theorem witness_HeaderSizeArithmetic :
    (1073741823#32).toNat ≤ Config.capMax ∧ (0x7FFFFFFF#32).toNat < 2 ^ 31 ∧
    ¬ (0x80000000#32).toNat < 2 ^ 31 := by decide

theorem witness_HeaderProperties :
    ((0x7FFFFFFF#32).toNat < 2 ^ 31 ∧ (1073741823#32).toNat ≤ Config.capMax) ∧
    (finished.block.rate = (finished.raise .phase).block.rate ∧
      finished.block.valid = (finished.raise .phase).block.valid) ∧
    ({ finished with block := { finished.block with valid := 48000 } } : State).block.valid = 48000 := by
  decide

theorem witness_HeaderDeterminesRateAndCount :
    (48000#32).toNat ≤ Config.capMax ∧ hdr 16000 48000 = hdr 16000 48000 := ⟨by decide, rfl⟩

theorem witness_PayloadByteMap : 43 < 44 ∧ 1 < finished.block.valid.toNat := by decide

/-- The last byte, the first address past the end, and the two other phases. -/
theorem witness_ReadPayloadRespondsByte :
    finished.block.valid.toNat ≤ finished.cap ∧ finished.block.phase = .done ∧
    (47#32).toNat < 44 + 2 * finished.block.valid.toNat ∧
    44 + 2 * finished.block.valid.toNat ≤ (48#32).toNat ∧
    (capturing 0 []).block.phase ≠ .done ∧ State.reset.block.phase ≠ .done := by decide

theorem witness_ReadOutYieldsUploadPayload : finished.Inv ∧ finished.block.phase = .done :=
  ⟨finished_inv, rfl⟩

/-- Each of the five commands has a next state; a legal selector and an address in range. -/
theorem witness_ReadingCommandsFrame :
    (∃ t, exec (.nop 0) finished = .next t) ∧ (∃ t, exec (.readStatus 0) finished = .next t) ∧
    (∃ t, exec (.readReg 6) finished = .next t) ∧ (∃ t, exec (.readPayload 47) finished = .next t) ∧
    (∃ t, exec (.narrow 0) finished = .next t) ∧ (6#32).toNat < 7 ∧ finished.block.phase = .done ∧
    (47#32).toNat < 44 + 2 * finished.block.valid.toNat :=
  ⟨⟨_, rfl⟩, ⟨_, rfl⟩, ⟨_, rfl⟩, ⟨_, rfl⟩, ⟨_, rfl⟩, by decide, rfl, by decide⟩

theorem witness_ConfigurationFrame :
    (∃ t, exec (.setRate 5) State.reset = .next t) ∧ (∃ t, exec (.setSeconds 5) finished = .next t) ∧
    State.reset.block.phase = .idle :=
  ⟨⟨_, rfl⟩, ⟨_, rfl⟩, rfl⟩

theorem witness_PhaseCommandsFrame :
    (∃ t, exec (.start 0) (configured 16000 3) = .next t) ∧ (∃ t, exec (.release 0) finished = .next t) :=
  ⟨⟨_, rfl⟩, ⟨_, rfl⟩⟩

theorem witness_PushFrame :
    ((∃ t, exec (.push 5) (capturing 0 []) = .next t) ∧ (capturing 0 []).block.phase = .capture) ∧
    ((∃ t, exec (.push 5) finished = .next t) ∧ finished.block.phase ≠ .capture) :=
  ⟨⟨⟨_, rfl⟩, rfl⟩, ⟨_, rfl⟩, by decide⟩

/-- Each register is changed by some instruction. -/
theorem witness_RegisterWriters :
    (∃ t, exec (.start 0) (configured 16000 3) = .next t ∧ t.block.phase ≠ .idle ∧
      t.block.target ≠ (configured 16000 3).block.target) ∧
    (∃ t, exec (.setRate 5) State.reset = .next t ∧ t.block.rate ≠ State.reset.block.rate) ∧
    (∃ t, exec (.setSeconds 5) State.reset = .next t ∧ t.block.seconds ≠ State.reset.block.seconds) ∧
    (∃ t, exec (.push 5) (capturing 0 [(0, 0xFF), (1, 0xFF)]) = .next t ∧
      t.block.valid ≠ (capturing 0 []).block.valid ∧ t.block.rawb ≠ (capturing 0 []).block.rawb ∧
      t.bufEntry 0 ≠ (capturing 0 [(0, 0xFF), (1, 0xFF)]).bufEntry 0) ∧
    Instr.start 0 ≠ .reset :=
  ⟨⟨_, rfl, by decide, by decide⟩, ⟨_, rfl, by decide⟩, ⟨_, rfl, by decide⟩,
    ⟨_, rfl, by decide, by decide, by decide⟩, by decide⟩

theorem witness_ErrorCauses :
    (∃ t, exec (.readReg 7) finished = .next t) ∧ Instr.readReg 7 ≠ .reset :=
  ⟨⟨_, rfl⟩, by decide⟩

theorem witness_FlagsAreSticky :
    ((∃ t, step (hostTurn 0 (finished.raise .cap)) = .next t) ∧
      (∀ ts, (hostTurn 0 (finished.raise .cap)).turns ≠ .reset :: ts) ∧
      (hostTurn 0 (finished.raise .cap)).block.flag .cap = true) ∧
    ((∃ t, step { finished with turns := [.reset] } = .next t) ∧
      ({ finished with turns := [.reset] } : State).turns = .reset :: []) :=
  ⟨⟨⟨_, rfl⟩, by simp [hostTurn], by decide⟩, ⟨_, rfl⟩, rfl⟩

theorem witness_OneFlagPerTransaction :
    ∃ t, step (hostTurn 0x4200000000 finished) = .next t ∧
      (hostTurn 0x4200000000 finished).block.flag .illegal = false ∧ t.block.flag .illegal = true :=
  ⟨_, rfl, by decide, by decide⟩

theorem witness_OneResponsePerCommand :
    finished.Inv ∧ (Instr.nop 0).fromHost = true ∧ (Instr.push 0).fromHost = false :=
  ⟨finished_inv, rfl, rfl⟩

theorem witness_AbsentBufferEntryFaults :
    ((overfull .capture).block.phase = .capture ∧
      (overfull .capture).cap ≤ (overfull .capture).block.valid.toNat) ∧
    ((overfull .done).block.phase = .done ∧ 44 + 2 * (overfull .done).cap ≤ (46#32).toNat ∧
      (46#32).toNat < 44 + 2 * (overfull .done).block.valid.toNat) := by decide

theorem witness_StepRunsDecodedInstruction :
    (Instr.setRate 16000).wellFormed = true ∧
    ((hostTurn 0x0100003E80 finished).turns = [.host] ∧
      (hostTurn 0x0100003E80 finished).commands = [0x0100003E80] ∧
      decode (.command 0x0100003E80) = .ok (.setRate 16000)) ∧
    ((sourceTurn 5 finished).turns = [.source] ∧ (sourceTurn 5 finished).samples = [5] ∧
      decode (.sample 5) = .ok (.push 5)) ∧
    (({ finished with turns := [.reset] } : State).turns = [.reset] ∧ decode .reset = .ok .reset) :=
  ⟨rfl, ⟨rfl, rfl, rfl⟩, ⟨rfl, rfl, rfl⟩, rfl, rfl⟩

theorem witness_PlacedInstructionRunsNext :
    decodeTableWord 40 0x0100003E80 = some (.setRate 16000) ∧
    decodeTableWord 32 5 = some (.push 5) ∧ decodeTableWord 0 0 = some .reset := by decide

theorem witness_NothingOfferedChangesNothing :
    finished.turns = [] ∧
    (({ finished with turns := [.host] } : State).turns = [.host] ∧ finished.commands = []) ∧
    (({ finished with turns := [.source] } : State).turns = [.source] ∧ finished.samples = []) := by
  decide

theorem witness_InvariantHoldsAtReset : Config.capLegal 1 ∧ Config.capLegal Config.capMax := by decide

theorem witness_StepKeepsInvariant :
    (sourceTurn 5 (capturing 2 twoSamples)).Inv ∧
    ∃ t, step (sourceTurn 5 (capturing 2 twoSamples)) = .next t :=
  ⟨State.inv_of_check (by decide), _, rfl⟩

theorem witness_StepNeverStops : (capturing 2 twoSamples).Inv := capturing_inv

theorem witness_EveryRunMeetsInvariant : Config.capLegal 1 ∧ Config.capLegal 48000 := by decide

theorem witness_CapacityIsHardwired : ∃ t, step (hostTurn 0x0300000000 (configured 16000 3)) = .next t :=
  ⟨_, rfl⟩

/-- A turn that keeps `DONE` and one that leaves it. -/
theorem witness_PayloadIsStableInDone :
    finished.block.phase = .done ∧
    (∃ t, step (hostTurn 0x0100000005 finished) = .next t ∧ t.block.phase = .done) ∧
    (∃ t, step (hostTurn 0x0400000000 finished) = .next t ∧ t.block.phase = .idle) :=
  ⟨rfl, ⟨_, rfl, rfl⟩, _, rfl, rfl⟩

/-- A push short of the target, the last push, and a reset. -/
theorem witness_CaptureEndsOnlyByLastPushOrReset :
    (∃ t, step (sourceTurn 5 (capturing 0 [])) = .next t ∧ t.block.phase = .capture) ∧
    (∃ t, step (sourceTurn 5 (capturing 2 twoSamples)) = .next t ∧ t.block.phase = .done) ∧
    (∃ t, step { capturing 2 twoSamples with turns := [.reset] } = .next t ∧ t.block.phase = .idle) :=
  ⟨⟨_, rfl, rfl⟩, ⟨_, rfl, rfl⟩, _, rfl, rfl⟩

/-- A source with turns and no words, and a source with a word and no turns; the host has a command. -/
theorem witness_StalledCaptureNeverEnds :
    (let s := { hostTurn 0x0400000000 (capturing 0 []) with turns := [.source, .host] }
     s.block.phase = .capture ∧ (∀ x ∈ s.turns, x ≠ Agent.reset) ∧ s.samples = []) ∧
    (let s := { hostTurn 0x0400000000 (capturing 0 []) with samples := [5] }
     s.block.phase = .capture ∧ (∀ x ∈ s.turns, x ≠ Agent.reset) ∧
     ∀ x ∈ s.turns, x ≠ Agent.source) := by decide

/-- Two blocks in `IDLE` with different stale samples. -/
theorem witness_StaleSamplesNeverReachHost :
    (configured 16000 3).Inv ∧
    State.Inv { configured 16000 3 with
      bufDraw := 7, block := { (configured 16000 3).block with buf := twoSamples } } ∧
    (configured 16000 3).block.phase = .idle ∧ stepAll 1 (configured 16000 3) = some (configured 16000 3) :=
  ⟨configured_inv, State.inv_of_check (by decide), rfl, rfl⟩

theorem witness_StatusAndFinalPushEitherOrder :
    ({ capturing 2 twoSamples with commands := [0x0500000000], samples := [5] } : State).Inv ∧
    (capturing 2 twoSamples).block.phase = .capture ∧
    (capturing 2 twoSamples).block.valid.toNat + 1 = (capturing 2 twoSamples).block.target.toNat ∧
    decode (.command 0x0500000000) = .ok (.readStatus 0) :=
  ⟨State.inv_of_check (by decide), rfl, by decide, rfl⟩

end Sys2Proof.Tests
end

section
/-! The reset values (10_state.md R36) and the two output levels (10_state.md R31), read field by field. -/

namespace Sys2Proof.Machine

/-! ## The reset values of the block -/

@[simp] theorem Block.reset_phase : Block.reset.phase = .idle := rfl
@[simp] theorem Block.reset_rate : Block.reset.rate = 0 := rfl
@[simp] theorem Block.reset_seconds : Block.reset.seconds = 0 := rfl
@[simp] theorem Block.reset_target : Block.reset.target = 0 := rfl
@[simp] theorem Block.reset_valid : Block.reset.valid = 0 := rfl
@[simp] theorem Block.reset_rawb : Block.reset.rawb = 0 := rfl
@[simp] theorem Block.reset_buf : Block.reset.buf = [] := rfl

@[simp] theorem Memory.lookup_nil (a : Nat) : Memory.lookup [] a = none := rfl

/-! ## The power-on state -/

@[simp] theorem State.resetOf_cap (cap : Nat) : (State.resetOf cap).cap = cap := rfl
@[simp] theorem State.resetOf_block (cap : Nat) : (State.resetOf cap).block = Block.reset := rfl

/-! ## The output levels -/

@[simp] theorem Block.ready_eq_true_iff (b : Block) : b.ready = true ↔ b.phase = .capture :=
  decide_eq_true_iff

@[simp] theorem Block.done_eq_true_iff (b : Block) : b.done = true ↔ b.phase = .done :=
  decide_eq_true_iff

@[simp] theorem Block.ready_eq_false_iff (b : Block) : b.ready = false ↔ b.phase ≠ .capture :=
  decide_eq_false_iff_not

@[simp] theorem Block.done_eq_false_iff (b : Block) : b.done = false ↔ b.phase ≠ .done :=
  decide_eq_false_iff_not

/-- In `IDLE` both output levels are 0. -/
theorem Block.levels_low_of_idle {b : Block} (h : b.phase = .idle) :
    b.ready = false ∧ b.done = false := by
  simp [h]

/-! ## The obligations -/

/-- Settles O29: power-on puts the block in its reset state, whose registers, flags and buffer are those
of R36, and the output levels are low because the phase is `IDLE`. -/
theorem powerOnStateIsReset : Obligations.PowerOnStateIsReset := by
  unfold Obligations.PowerOnStateIsReset
  intro cap
  rw [State.resetOf_block]
  obtain ⟨hready, hdone⟩ := Block.levels_low_of_idle Block.reset_phase
  exact ⟨Block.reset_phase, Block.reset_rate, Block.reset_seconds, Block.reset_target,
    Block.reset_valid, Block.reset_rawb, Block.reset_flag, Memory.lookup_nil, hready, hdone,
    State.resetOf_cap cap⟩

/-- Settles O39: each level is read off the phase. -/
theorem outputLevelsFollowPhase : Obligations.OutputLevelsFollowPhase :=
  fun b => ⟨b.ready_eq_true_iff, b.done_eq_true_iff⟩

end Sys2Proof.Machine
end

section
/-! The opcode map (30_encoding.md R65, R66) and the words of R70, read through the encoder: every row is
the offer its instruction encodes to. -/

namespace Sys2Proof

/-! ## The rows of the opcode map -/

/-- The decoder reads back the fields that the encoder put into its offer. -/
@[simp] theorem decode_encode (i : Instr) : decode (encode i) = .ok i := by
  cases i with
  | push _ => exact decode_sample _
  | reset => exact decode_reset
  | nop _ | setRate _ | setSeconds _ | start _ | release _ | readStatus _ | readReg _
  | readPayload _ | narrow _ => simp [encode, decodeCommand]

theorem decode_of_encode_eq {i : Instr} {o : Offer} (h : encode i = o) : decode o = .ok i :=
  h ▸ decode_encode i

/-- A row of R65: where `f` encodes under the opcode `op`, a command with that opcode decodes to `f` of
its operand, since a command word is its two fields. -/
theorem decode_command_of_row {c : CommandWord} {op : BitVec 8} (f : Word → Instr)
    (hrow : ∀ arg, encode (f arg) = .command (commandWord op arg)) (hop : commandOp c = op) :
    decode (.command c) = .ok (f (commandArg c)) := by
  apply decode_of_encode_eq
  rw [hrow, ← hop, commandWord_fields]

/-- R66: past the last row every opcode is illegal. -/
theorem decode_command_of_illegal {c : CommandWord} (hop : 9 ≤ (commandOp c).toNat) :
    decode (.command c) = .error (.illegalOpcode (commandOp c)) := by
  rw [decode_command, decodeCommand]
  split
  case h_10 => rfl
  all_goals omega

end Sys2Proof

namespace Sys2Proof.Machine

/-! ## The obligations -/

/-- Settles O3: each legal opcode is the one under which its row's instruction encodes, and the opcodes
past them are rejected. -/
theorem opcodeMapIsComplete : Obligations.OpcodeMapIsComplete :=
  ⟨fun _ =>
    ⟨decode_command_of_row .nop fun _ => rfl,
      decode_command_of_row .setRate fun _ => rfl,
      decode_command_of_row .setSeconds fun _ => rfl,
      decode_command_of_row .start fun _ => rfl,
      decode_command_of_row .release fun _ => rfl,
      decode_command_of_row .readStatus fun _ => rfl,
      decode_command_of_row .readReg fun _ => rfl,
      decode_command_of_row .readPayload fun _ => rfl,
      decode_command_of_row .narrow fun _ => rfl,
      decode_command_of_illegal⟩,
    decode_sample, decode_reset⟩

/-- Settles O4: the six words are what the encoder computes, and so they decode to the instructions they
encode. -/
theorem wordsOfTheSpecDecode : Obligations.WordsOfTheSpecDecode := by
  unfold Obligations.WordsOfTheSpecDecode
  have hrate : encode (.setRate 16000) = .command 0x0100003E80#40 := rfl
  have hseconds : encode (.setSeconds 3) = .command 0x0200000003#40 := rfl
  have hstart : encode (.start 0) = .command 0x0300000000#40 := rfl
  have hpayload : encode (.readPayload 44) = .command 0x070000002C#40 := rfl
  have hnarrow : encode (.narrow 0xFFFF0000) = .command 0x08FFFF0000#40 := rfl
  have hpush : encode (.push 0xFFFF0000) = .sample 0xFFFF0000#32 := rfl
  exact ⟨commandWord_toNat, hrate, hseconds, hstart, hpayload, hnarrow, hpush,
    decode_of_encode_eq hrate, decode_of_encode_eq hseconds, decode_of_encode_eq hstart,
    decode_of_encode_eq hpayload, decode_of_encode_eq hnarrow, decode_of_encode_eq hpush⟩

end Sys2Proof.Machine
end

section
/-! Acquisition and narrowing (40_acquisition.md R80-R85): the narrowed sample is the floor quotient of the
word by 65536, and an accepted push (R82) stores it without overflow of a counter. -/

namespace Sys2Proof.Machine

/-! ## The two's-complement readings -/

/-- `sint16` is the library's two's-complement reading. -/
theorem sint16_eq_toInt (b : Sample) : sint16 b = b.toInt := by
  rw [sint16, BitVec.toInt_eq_toNat_cond]
  split <;> split <;> omega

/-- `sint32` is the library's two's-complement reading. -/
theorem sint32_eq_toInt (w : Word) : sint32 w = w.toInt := by
  rw [sint32, BitVec.toInt_eq_toNat_cond]
  split <;> split <;> omega

theorem sint16_bounds (b : Sample) : -32768 ≤ sint16 b ∧ sint16 b ≤ 32767 := by
  rw [sint16_eq_toInt]
  have hlower : -2 ^ 15 ≤ b.toInt := b.le_toInt
  have hupper : b.toInt < 2 ^ 15 := b.toInt_lt
  omega

/-- Bit 31 is the sign of a source word. -/
theorem sint32_neg_iff (w : Word) : sint32 w < 0 ↔ w.getLsbD 31 = true := by
  rw [sint32_eq_toInt, ← decide_eq_true_iff (p := w.toInt < 0), ← BitVec.msb_eq_toInt,
    BitVec.msb_eq_getLsbD_last]

/-! ## The narrowing -/

theorem narrow16_toNat (w : Word) : (narrow16 w).toNat = w.toNat / 65536 := by
  rw [narrow16, BitVec.extractLsb'_toNat, Nat.shiftRight_eq_div_pow]
  omega

/-- Dropping the low half rounds down: the sign moves from bit 31 to bit 15 and the rest is the quotient. -/
theorem sint16_narrow16 (w : Word) : sint16 (narrow16 w) = sint32 w / 65536 := by
  rw [sint16, sint32, narrow16_toNat]
  split <;> split <;> omega

/-- Both words read as the same number, the floor quotient by `2 ^ 16`. -/
theorem sext32_narrow16 (w : Word) : sext32 (narrow16 w) = asr w 16 := by
  apply BitVec.eq_of_toInt_eq
  calc (sext32 (narrow16 w)).toInt
      = sint16 (narrow16 w) := by
        rw [sext32, BitVec.toInt_signExtend_of_le (by omega), sint16_eq_toInt]
    _ = w.toInt / 65536 := by rw [sint16_narrow16, sint32_eq_toInt]
    _ = (asr w 16).toInt := by
        rw [asr, BitVec.toInt_sshiftRight, Int.shiftRight_eq_div_pow]
        norm_num

/-- Below bit 16 the arithmetic shift puts no copy of the sign. -/
theorem asr_low_half (w : Word) : (asr w 16).extractLsb' 0 16 = narrow16 w := by
  ext i hi
  have hword : i < 32 := by omega
  have hlow : 16 + i < 32 := by omega
  simp [asr, narrow16, BitVec.getElem_sshiftRight, hword, hlow]

theorem sint16_narrow16_neg {w : Word} (h : w.getLsbD 31 = true) : sint16 (narrow16 w) < 0 := by
  rw [sint16_narrow16]
  exact Int.ediv_neg_of_neg_of_pos ((sint32_neg_iff w).mpr h) (by decide)

/-! ## An accepted push -/

/-- R82's effect, where entry `VALID` exists. -/
theorem execPush_of_capture {s : State} (w : Word) (hphase : s.block.phase = .capture)
    (hentry : s.block.valid.toNat < s.cap) :
    execPush w s = .next (s.setBufEntry s.block.valid.toNat (narrow16 w)).countWord := by
  rw [execPush, hphase]
  exact if_pos hentry

/-- In `CAPTURE` entry `VALID` exists. -/
theorem State.Inv.valid_lt_cap {s : State} (hinv : s.Inv) (hphase : s.block.phase = .capture) :
    s.block.valid.toNat < s.cap :=
  (hinv.captureRoom hphase).trans_le hinv.targetLeCap

/-- The build's capacity keeps `VALID` and `RAWB` within their registers (R8). -/
theorem State.Inv.valid_lt_capMax {s : State} (hinv : s.Inv) (hphase : s.block.phase = .capture) :
    s.block.valid.toNat < Config.capMax :=
  (hinv.valid_lt_cap hphase).trans_le hinv.capLegal.2

theorem State.Inv.valid_succ_toNat {s : State} (hinv : s.Inv) (hphase : s.block.phase = .capture) :
    (s.block.valid + 1).toNat = s.block.valid.toNat + 1 := by
  have hroom := hinv.valid_lt_capMax hphase
  unfold Config.capMax at hroom
  bv_omega

theorem State.Inv.rawb_add_four_toNat {s : State} (hinv : s.Inv)
    (hphase : s.block.phase = .capture) :
    (s.block.rawb + 4).toNat = s.block.rawb.toNat + 4 := by
  have hroom := hinv.valid_lt_capMax hphase
  have hrawb := hinv.rawbCounts
  unfold Config.capMax at hroom
  bv_omega

/-! ## The obligations -/

/-- Settles O15: the sample is the floor quotient `sint32 w / 65536`, and its sign extension is the shifted
word because both read as that quotient. -/
theorem narrowingIdentities : Obligations.NarrowingIdentities := by
  unfold Obligations.NarrowingIdentities
  intro w
  have hfloor : sint16 (narrow16 w) = (sint32 w).fdiv 65536 := by
    rw [sint16_narrow16, Int.fdiv_eq_ediv_of_nonneg _ (by decide)]
  obtain ⟨hlower, hupper⟩ := sint16_bounds (narrow16 w)
  exact ⟨asr_low_half w, sext32_narrow16 w, hfloor, hlower, hupper, sint16_narrow16_neg, by decide⟩

/-- Settles O16: R32 gives room for entry `VALID` and for both counters, so the push is accepted, its store
touches that entry alone and no sum wraps. -/
theorem pushStoresNarrowedSample : Obligations.PushStoresNarrowedSample := by
  unfold Obligations.PushStoresNarrowedSample
  intro w s hinv hphase
  refine ⟨decode_sample w, _, execPush_of_capture w hphase (hinv.valid_lt_cap hphase),
    ?entry, ?others, hinv.valid_succ_toNat hphase, hinv.rawb_add_four_toNat hphase, ?phase, rfl⟩
  case entry =>
    rw [State.countWord_bufEntry, State.setBufEntry_bufEntry_same, narrow16]
  case others =>
    intro k hk
    rw [State.countWord_bufEntry, State.setBufEntry_bufEntry_other _ _ _ _ hk]
  case phase =>
    rw [State.countWord_block_phase, State.setBufEntry_block_valid, State.setBufEntry_block_target,
      State.setBufEntry_block_phase, hphase]

/-- Settles O14: the command is the encoding of `NARROW`, and its response is the shifted word by the
second identity of R81. -/
theorem narrowRespondsSignExtendedSample : Obligations.NarrowRespondsSignExtendedSample :=
  fun w _ => ⟨decode_encode (.narrow w), rfl, sext32_narrow16 w⟩

end Sys2Proof.Machine
end

section
/-! The container encoder (41_encoder.md R100-R108): the header's fields, the payload's bytes, and the
read-out, in which every read responds one byte and changes nothing else. -/

namespace Sys2Proof.Machine

/-! ## The size fields -/

theorem dataBytes_toNat (n : Word) : (dataBytes n).toNat = 2 * n.toNat % 2 ^ 32 :=
  BitVec.toNat_ofNat _ _

theorem fileSize_toNat (n : Word) : (fileSize n).toNat = ((dataBytes n).toNat + 36) % 2 ^ 32 :=
  BitVec.toNat_ofNat _ _

theorem byteRate_toNat (rate : Word) : (byteRate rate).toNat = 2 * rate.toNat % 2 ^ 32 :=
  BitVec.toNat_ofNat _ _

/-- R8 bounds the block's counts so that the data size does not wrap. -/
theorem dataBytes_toNat_of_le_capMax {n : Word} (hn : n.toNat ≤ Config.capMax) :
    (dataBytes n).toNat = 2 * n.toNat := by
  unfold Config.capMax at hn
  rw [dataBytes_toNat]
  omega

theorem fileSize_toNat_of_le_capMax {n : Word} (hn : n.toNat ≤ Config.capMax) :
    (fileSize n).toNat = 2 * n.toNat + 36 := by
  rw [fileSize_toNat, dataBytes_toNat_of_le_capMax hn]
  unfold Config.capMax at hn
  omega

theorem byteRate_toNat_eq_iff (rate : Word) :
    (byteRate rate).toNat = 2 * rate.toNat ↔ rate.toNat < 2 ^ 31 := by
  rw [byteRate_toNat]
  omega

/-! ## The header's fields, at the offsets of R101 -/

section
variable (rate n : Word)

@[simp] theorem hdr_length : (hdr rate n).length = 44 := rfl

@[simp] theorem leNat_hdr_fileSize : leNat (((hdr rate n).drop 4).take 4) = (fileSize n).toNat :=
  leNat_le32 (fileSize n)

@[simp] theorem leNat_hdr_fmtSize : leNat (((hdr rate n).drop 16).take 4) = 16 :=
  leNat_le32 16

@[simp] theorem leNat_hdr_audioFormat : leNat (((hdr rate n).drop 20).take 2) = 1 :=
  leNat_le16 1

@[simp] theorem leNat_hdr_channels : leNat (((hdr rate n).drop 22).take 2) = 1 :=
  leNat_le16 1

@[simp] theorem leNat_hdr_sampleRate : leNat (((hdr rate n).drop 24).take 4) = rate.toNat :=
  leNat_le32 rate

@[simp] theorem leNat_hdr_byteRate : leNat (((hdr rate n).drop 28).take 4) = (byteRate rate).toNat :=
  leNat_le32 (byteRate rate)

@[simp] theorem leNat_hdr_blockAlign : leNat (((hdr rate n).drop 32).take 2) = 2 :=
  leNat_le16 2

@[simp] theorem leNat_hdr_bitsPerSample : leNat (((hdr rate n).drop 34).take 2) = 16 :=
  leNat_le16 16

@[simp] theorem leNat_hdr_dataSize : leNat (((hdr rate n).drop 40).take 4) = (dataBytes n).toNat :=
  leNat_le32 (dataBytes n)

end

/-! ## The payload's bytes -/

theorem payloadByte_of_lt {s : State} {a : Nat} (ha : a < 44) :
    payloadByte s a = (hdr s.block.rate s.block.valid).getD a 0 :=
  if_pos ha

theorem payloadByte_low (s : State) (k : Nat) :
    payloadByte s (44 + 2 * k) = sampleLow (s.bufEntry k) := by
  have hpast : ¬ 44 + 2 * k < 44 := by omega
  have heven : (44 + 2 * k - 44) % 2 = 0 := by omega
  have hentry : (44 + 2 * k - 44) / 2 = k := by omega
  rw [payloadByte, if_neg hpast, if_pos heven, hentry]

theorem payloadByte_high (s : State) (k : Nat) :
    payloadByte s (45 + 2 * k) = sampleHigh (s.bufEntry k) := by
  have hpast : ¬ 45 + 2 * k < 44 := by omega
  have hodd : ¬ (45 + 2 * k - 44) % 2 = 0 := by omega
  have hentry : (45 + 2 * k - 44) / 2 = k := by omega
  rw [payloadByte, if_neg hpast, if_neg hodd, hentry]

theorem hdr_getElem?_eq_payloadByte (s : State) {a : Nat} (ha : a < 44) :
    (hdr s.block.rate s.block.valid)[a]? = some (payloadByte s a) := by
  rw [payloadByte_of_lt ha, List.getD_eq_getElem?_getD, List.getElem?_eq_getElem ha, Option.getD_some]

@[simp] theorem State.respond_payloadByte (s : State) (v : Word) (a : Nat) :
    payloadByte (s.respond v) a = payloadByte s a := by
  simp [payloadByte]

/-! ## The payload as a whole -/

/-- The numbers below `2 * n`, taken in pairs. -/
theorem map_range_two_mul {α : Type} (f : Nat → α) (n : Nat) :
    (List.range (2 * n)).map f = (List.range n).flatMap (fun k => [f (2 * k), f (2 * k + 1)]) := by
  induction n with
  | zero => rfl
  | succ n ih => simp [Nat.mul_succ, List.range_succ, ih]

theorem hdr_eq_map_payloadByte (s : State) :
    hdr s.block.rate s.block.valid = (List.range 44).map (payloadByte s) := by
  apply List.ext_getElem?
  intro a
  by_cases ha : a < 44
  · rw [hdr_getElem?_eq_payloadByte s ha]
    simp [ha]
  · simp [Nat.le_of_not_lt ha]

/-- The UploadPayload is `PayloadByte` at every address below `PAYLOAD_LEN`, in order. -/
theorem uploadPayload_eq_map_payloadByte (s : State) :
    s.uploadPayload = (List.range (payloadLen s.block)).map (payloadByte s) := by
  have hodd (k : Nat) : 44 + (2 * k + 1) = 45 + 2 * k := by omega
  rw [payloadLen, List.range_add, List.map_append, List.map_map, map_range_two_mul,
    ← hdr_eq_map_payloadByte, State.uploadPayload]
  simp only [Function.comp_apply, hodd, payloadByte_low, payloadByte_high]

theorem uploadPayload_length (s : State) : s.uploadPayload.length = payloadLen s.block := by
  rw [uploadPayload_eq_map_payloadByte, List.length_map, List.length_range]

/-! ## The two commands of the read-out -/

theorem exec_readPayload_of_not_done {s : State} (a : Word) (hphase : s.block.phase ≠ .done) :
    exec (.readPayload a) s = .next ((s.raise .phase).respond 0) :=
  if_pos hphase

theorem exec_readPayload_of_past_end {s : State} {a : Word} (hphase : s.block.phase = .done)
    (ha : payloadLen s.block ≤ a.toNat) :
    exec (.readPayload a) s = .next ((s.raise .range).respond 0) := by
  rw [exec, execReadPayload, if_neg (not_not_intro hphase), if_pos ha]

/-- Below the payload's end, where every entry of the payload exists, the byte is the response. -/
theorem exec_readPayload_of_lt {s : State} {a : Word} (hphase : s.block.phase = .done)
    (hcap : s.block.valid.toNat ≤ s.cap) (ha : a.toNat < payloadLen s.block) :
    exec (.readPayload a) s = .next (s.respond (zext32 (payloadByte s a.toNat))) := by
  have hentry : a.toNat < 44 + 2 * s.cap := by
    unfold payloadLen at ha
    omega
  rw [exec, execReadPayload, if_neg (not_not_intro hphase), if_neg (Nat.not_le.mpr ha), if_pos hentry]

theorem word_ofNat_toNat {a : Nat} (ha : a < 2 ^ 32) : (BitVec.ofNat 32 a).toNat = a := by
  rw [BitVec.toNat_ofNat, Nat.mod_eq_of_lt ha]

theorem exec_readReg_payloadLen (s : State) :
    exec (.readReg 5) s = .next (s.respond (BitVec.ofNat 32 (payloadLen s.block))) := rfl

theorem State.Inv.valid_le_cap {s : State} (hinv : s.Inv) : s.block.valid.toNat ≤ s.cap :=
  hinv.validLeTarget.trans hinv.targetLeCap

/-- `PAYLOAD_LEN` fits a word in every legal build (R8). -/
theorem State.Inv.payloadLen_lt {s : State} (hinv : s.Inv) : payloadLen s.block < 2 ^ 32 := by
  have hvalid := hinv.valid_le_cap.trans hinv.capLegal.2
  unfold Config.capMax at hvalid
  unfold payloadLen
  omega

/-- Reads of addresses inside the payload respond the bytes there, in the order of the reads: each leaves
the phase, the length and the bytes to those that follow it. -/
theorem execAll_readPayload {s : State} (hphase : s.block.phase = .done)
    (hcap : s.block.valid.toNat ≤ s.cap) (hlen : payloadLen s.block < 2 ^ 32) (as : List Nat)
    (has : ∀ a ∈ as, a < payloadLen s.block) :
    execAll (as.map fun a => Instr.readPayload (BitVec.ofNat 32 a)) s =
      some { s with responses := s.responses ++ as.map fun a => zext32 (payloadByte s a) } := by
  induction as generalizing s with
  | nil => simp [execAll]
  | cons a as ih =>
    obtain ⟨ha, hrest⟩ := List.forall_mem_cons.mp has
    have hword : (BitVec.ofNat 32 a).toNat = a := word_ofNat_toNat (ha.trans hlen)
    have hread := exec_readPayload_of_lt hphase hcap (hword.symm ▸ ha)
    have hreads := ih (s := s.respond (zext32 (payloadByte s a))) hphase hcap hlen hrest
    rw [hword] at hread
    simp only [List.map_cons, execAll, hread, hreads, State.respond_payloadByte,
      State.respond_responses, List.append_assoc, List.singleton_append]
    rfl

/-! ## The obligations -/

/-- Settles O27: in order, the addresses below `PAYLOAD_LEN` hold the UploadPayload's bytes, and R32 keeps
them inside the buffer and `PAYLOAD_LEN` inside a word. -/
theorem readOutYieldsUploadPayload : Obligations.ReadOutYieldsUploadPayload := by
  unfold Obligations.ReadOutYieldsUploadPayload
  intro s hinv hphase
  have hlen := hinv.payloadLen_lt
  refine ⟨uploadPayload_length s, ⟨_, word_ofNat_toNat hlen, exec_readReg_payloadLen s⟩, ?_⟩
  rw [uploadPayload_eq_map_payloadByte, List.map_map]
  exact execAll_readPayload hphase hinv.valid_le_cap hlen _ fun _ => List.mem_range.mp

/-- Settles O22: each field is its formula's word, and the formulas wrap only past the stated bounds. -/
theorem headerSizeArithmetic : Obligations.HeaderSizeArithmetic := by
  unfold Obligations.HeaderSizeArithmetic
  intro rate n
  rw [leNat_hdr_dataSize, leNat_hdr_fileSize, leNat_hdr_byteRate, leNat_hdr_blockAlign]
  exact ⟨dataBytes_toNat n, dataBytes_toNat n ▸ fileSize_toNat n, byteRate_toNat rate, rfl,
    fun hn => ⟨dataBytes_toNat_of_le_capMax hn, fileSize_toNat_of_le_capMax hn⟩,
    byteRate_toNat_eq_iff rate⟩

/-- Settles O23: the fields are read back at their offsets, and below 44 a payload byte is the header's. -/
theorem headerProperties : Obligations.HeaderProperties := by
  unfold Obligations.HeaderProperties
  refine ⟨hdr_length, ?fields, ?pure, ?empty, ?reference⟩
  case fields =>
    intro rate n hrate hn
    simp only [leNat_hdr_fileSize, leNat_hdr_fmtSize, leNat_hdr_audioFormat, leNat_hdr_channels,
      leNat_hdr_sampleRate, leNat_hdr_byteRate, leNat_hdr_blockAlign, leNat_hdr_bitsPerSample,
      leNat_hdr_dataSize, fileSize_toNat_of_le_capMax hn, dataBytes_toNat_of_le_capMax hn,
      (byteRate_toNat_eq_iff rate).mpr hrate, and_self]
  case pure =>
    intro s t hrate hvalid a ha
    rw [payloadByte_of_lt ha, payloadByte_of_lt ha, hrate, hvalid]
  case empty =>
    intro rate
    rw [leNat_hdr_dataSize, leNat_hdr_fileSize]
    decide
  case reference =>
    rw [leNat_hdr_byteRate, leNat_hdr_blockAlign, leNat_hdr_dataSize, leNat_hdr_fileSize]
    refine ⟨by decide, rfl, by decide, by decide, fun s hvalid => ?_⟩
    rw [payloadLen, hvalid]
    rfl

/-- Settles O21: the three computed fields are `FILE_SIZE`, `BYTE_RATE` and `DATA_BYTES`, and the rest of
the header is written out. -/
theorem headerByteLayout : Obligations.HeaderByteLayout :=
  fun rate n => ⟨fileSize n, byteRate rate, dataBytes n,
    dataBytes_toNat n, fileSize_toNat n, byteRate_toNat rate, rfl⟩

/-- Settles O25: below 44 the header has a byte at `a`, and past it each sample gives its two halves. -/
theorem payloadByteMap : Obligations.PayloadByteMap :=
  fun s => ⟨fun _ ha => hdr_getElem?_eq_payloadByte s ha,
    fun k _ => ⟨payloadByte_low s k, payloadByte_high s k⟩⟩

/-- Settles O26: the command is the encoding of `READ_PAYLOAD`, and the three cases are its three rules. -/
theorem readPayloadRespondsByte : Obligations.ReadPayloadRespondsByte :=
  fun a _ hcap => ⟨decode_encode (.readPayload a), exec_readPayload_of_not_done a,
    exec_readPayload_of_past_end, fun hphase => exec_readPayload_of_lt hphase hcap⟩

end Sys2Proof.Machine
end

section
/-! The control and configuration commands (42_control.md R120-R128): one equation per command, and the
status word of R29 field by field. -/

namespace Sys2Proof.Machine

/-! ## The fields of the status word -/

section
variable (b : Block)

theorem Block.status_extractLsb'_phase : b.status.extractLsb' 0 2 = b.phase.code := by
  rw [Block.status, BitVec.extractLsb'_setWidth_of_le (by decide), BitVec.extractLsb'_append_eq_right]

theorem Block.status_getLsbD_ready : b.status.getLsbD 2 = b.ready := by
  simp only [Block.status, BitVec.getLsbD_setWidth, BitVec.getLsbD_append]
  simp

theorem Block.status_getLsbD_done : b.status.getLsbD 3 = b.done := by
  simp only [Block.status, BitVec.getLsbD_setWidth, BitVec.getLsbD_append]
  simp

/-- A flag stands at the bit that its cause code names (R151). -/
theorem Block.status_getLsbD_code (e : ErrFlag) : b.status.getLsbD e.code = b.flag e := by
  simp only [Block.status, BitVec.getLsbD_setWidth, BitVec.getLsbD_append]
  cases e <;> simp [ErrFlag.code, Block.flag]

/-- Between the levels and the flags stands the zero field of R29. -/
theorem Block.status_extractLsb'_gap : b.status.extractLsb' 4 4 = 0#4 := by
  rw [Block.status, BitVec.extractLsb'_setWidth_of_le (by decide),
    BitVec.extractLsb'_append_eq_of_le (by decide), BitVec.extractLsb'_append_eq_of_le (by decide),
    BitVec.extractLsb'_append_eq_of_le (by decide)]
  exact BitVec.extractLsb'_append_eq_right

/-- Above the flags stands the zero extension. -/
theorem Block.status_extractLsb'_top : b.status.extractLsb' 13 19 = 0#19 := by
  ext i hi
  simp [Block.status]

end

/-- With no error recorded the status word is told by the phase, as right after reset. -/
theorem State.status_of_noError {s : State} (h : s.noError = true) :
    s.block.status = { Block.reset with phase := s.block.phase }.status := by
  simp only [State.noError, Bool.and_eq_true, Bool.not_eq_true'] at h
  obtain ⟨⟨⟨⟨hillegal, hcfglock⟩, hcap⟩, hphase⟩, hrange⟩ := h
  rw [Block.status, hillegal, hcfglock, hcap, hphase, hrange]
  rfl

/-! ## One equation per command -/

section
variable (s : State)

theorem exec_setRate (r : Word) : exec (.setRate r) s =
    .next ((if s.block.phase = .idle then s.setRate r else s.raise .cfglock).respond 0) := by
  rw [exec, execSetRate]
  cases s.block.phase <;> rfl

theorem exec_setSeconds (d : Word) : exec (.setSeconds d) s =
    .next ((if s.block.phase = .idle then s.setSeconds d else s.raise .cfglock).respond 0) := by
  rw [exec, execSetSeconds]
  cases s.block.phase <;> rfl

theorem exec_start (arg : Word) : exec (.start arg) s =
    .next ((if s.block.phase ≠ .idle then s
      else if s.cap < product s.block.rate s.block.seconds then s.raise .cap
      else s.beginCapture (product s.block.rate s.block.seconds)).respond 0) := by
  rw [exec, execStart]
  cases s.block.phase
  case idle => exact (apply_ite (fun t => Host.Outcome.next (State.respond 0 t)) _ _ _).symm
  case capture | done => rfl

theorem exec_release (arg : Word) : exec (.release arg) s =
    .next ((if s.block.phase = .done then s.setPhase .idle else s).respond 0) := by
  rw [exec, execRelease]
  cases s.block.phase <;> rfl

end

/-- R127: a selector of the register map responds its register. -/
theorem exec_readReg_of_register {s : State} {sel v : Word} (hv : s.register sel = some v) :
    exec (.readReg sel) s = .next (s.respond v) := by
  rw [exec, execReadReg, hv]

/-- R127: past the register map. -/
theorem exec_readReg_of_illegal {s : State} {sel : Word} (hsel : 7 ≤ sel.toNat) :
    exec (.readReg sel) s = .next ((s.raise .illegal).respond 0) := by
  rw [exec, execReadReg, (s.register_none_iff sel).mpr hsel]

/-! ## An accepted `START` -/

theorem State.beginCapture_zero (s : State) : s.beginCapture 0 =
    { s with block := { s.block with phase := .done, target := 0, valid := 0, rawb := 0 } } :=
  rfl

theorem State.beginCapture_of_pos {s : State} {p : Nat} (hp : 0 < p) : s.beginCapture p =
    { s with block := { s.block with
        phase := .capture, target := BitVec.ofNat 32 p, valid := 0, rawb := 0 } } := by
  rw [State.beginCapture, if_neg hp.ne']

/-- Every number up to a legal capacity fits a word (R8). -/
theorem lt_word_of_le_cap {n cap : Nat} (hcap : Config.capLegal cap) (hn : n ≤ cap) : n < 2 ^ 32 := by
  have hmax := hn.trans hcap.2
  unfold Config.capMax at hmax
  omega

/-! ## A turn of the host -/

theorem State.takeOffer_host {s : State} {c : CommandWord} {cs : List CommandWord} {ts : List Agent}
    (hturns : s.turns = .host :: ts) (hcommands : s.commands = c :: cs) :
    s.takeOffer = some (.command c, { s with turns := ts, commands := cs }) := by
  rw [State.takeOffer, hturns, hcommands]

theorem step_of_takeOffer {s s' : State} {o : Offer} (h : s.takeOffer = some (o, s')) :
    step s = runOffer o s' := by
  rw [step, h]

/-- R128's effect, from the state without the offer. -/
theorem runOffer_of_illegal (s : State) {c : CommandWord} (hop : 9 ≤ (commandOp c).toNat) :
    runOffer (.command c) s = .next ((s.raise .illegal).respond 0) := by
  rw [runOffer, decode_command_of_illegal hop, execIllegal]

/-! ## The obligations -/

/-- Settles O10: the response is the status word, whose fields are read off one by one, and with no error
it is one of three words. -/
theorem readStatusRespondsStatusWord : Obligations.ReadStatusRespondsStatusWord := by
  unfold Obligations.ReadStatusRespondsStatusWord
  intro arg s
  have hflag := s.block.status_getLsbD_code
  refine ⟨s.block.status, decode_encode (.readStatus arg), rfl, s.block.status_extractLsb'_phase,
    s.block.status_getLsbD_ready, s.block.status_getLsbD_done, s.block.status_extractLsb'_gap,
    hflag .illegal, hflag .cfglock, hflag .cap, hflag .phase, hflag .range,
    s.block.status_extractLsb'_top, fun hnone => ?_⟩
  rw [State.status_of_noError hnone]
  cases s.block.phase <;> rfl

/-- Settles O5: the command is the encoding of `NOP`, whose meaning is its response alone. -/
theorem nopRespondsZero : Obligations.NopRespondsZero :=
  fun arg _ => ⟨decode_encode (.nop arg), rfl⟩

/-- Settles O6: the phase decides between the write and the lock. -/
theorem setRateWritesOnlyInIdle : Obligations.SetRateWritesOnlyInIdle := by
  unfold Obligations.SetRateWritesOnlyInIdle
  intro r s
  rw [exec_setRate]
  refine ⟨decode_encode (.setRate r), fun hidle => ?_, fun hlocked => ?_⟩
  · rw [if_pos hidle]
    rfl
  · rw [if_neg hlocked]
    rfl

/-- Settles O7: the phase decides between the write and the lock. -/
theorem setSecondsWritesOnlyInIdle : Obligations.SetSecondsWritesOnlyInIdle := by
  unfold Obligations.SetSecondsWritesOnlyInIdle
  intro d s
  rw [exec_setSeconds]
  refine ⟨decode_encode (.setSeconds d), fun hidle => ?_, fun hlocked => ?_⟩
  · rw [if_pos hidle]
    rfl
  · rw [if_neg hlocked]
    rfl

/-- Settles O8: in `IDLE` the exact product is compared with `CAP` and then with 0, and a legal `CAP` keeps
an accepted product within its register. -/
theorem startBeginsOneCapture : Obligations.StartBeginsOneCapture := by
  unfold Obligations.StartBeginsOneCapture
  intro arg s
  rw [exec_start, product]
  refine ⟨decode_encode (.start arg), fun hidle habove => ?above, fun hidle hzero => ?empty,
    fun hidle hcap hpos hfits => ⟨_, word_ofNat_toNat (lt_word_of_le_cap hcap hfits), ?capture⟩,
    fun hbusy => ?ignored⟩
  case above =>
    rw [if_neg (not_not_intro hidle), if_pos habove]
    rfl
  case empty =>
    rw [if_neg (not_not_intro hidle), hzero, if_neg (Nat.not_lt_zero _), State.beginCapture_zero]
    rfl
  case capture =>
    rw [if_neg (not_not_intro hidle), if_neg (Nat.not_lt.mpr hfits), State.beginCapture_of_pos hpos]
    rfl
  case ignored =>
    rw [if_pos hbusy]
    rfl

/-- Settles O9: only in `DONE` does the phase change. -/
theorem releaseDiscardsPayload : Obligations.ReleaseDiscardsPayload := by
  unfold Obligations.ReleaseDiscardsPayload
  intro arg s
  rw [exec_release]
  refine ⟨decode_encode (.release arg), fun hdone => ?_, fun hother => ?_⟩
  · rw [if_pos hdone]
    rfl
  · rw [if_neg hother]
    rfl

/-- Settles O11: each selector of the map names its register, and R8's bounds keep `PAYLOAD_LEN` and `CAP`
within a word. -/
theorem readRegRespondsRegister : Obligations.ReadRegRespondsRegister := by
  unfold Obligations.ReadRegRespondsRegister
  intro sel s
  have hread {k v : Word} (hv : s.register k = some v) (hsel : sel = k) :
      exec (.readReg sel) s = .next (s.respond v) := hsel ▸ exec_readReg_of_register hv
  refine ⟨decode_encode (.readReg sel), hread rfl, hread rfl, hread rfl, hread rfl, hread rfl,
    fun hsel hvalid => ⟨_, word_ofNat_toNat ?length, hread rfl hsel⟩,
    fun hsel hcap => ⟨_, word_ofNat_toNat (lt_word_of_le_cap hcap le_rfl), hread rfl hsel⟩,
    exec_readReg_of_illegal⟩
  case length =>
    unfold Config.capMax at hvalid
    omega

/-- Settles O12: the turn takes the command off the port, the decoder rejects it by name, and R128's
effect is all that follows. -/
theorem illegalOpcodeSetsFlag : Obligations.IllegalOpcodeSetsFlag := by
  unfold Obligations.IllegalOpcodeSetsFlag
  intro c cs ts s hturns hcommands hop
  rw [step_of_takeOffer (State.takeOffer_host hturns hcommands), runOffer_of_illegal _ hop]
  rfl

end Sys2Proof.Machine
end

section
/-! The reset input (70_reset_and_hazards.md R170). -/

namespace Sys2Proof.Machine

/-- `RESET` puts the whole block at its reset value, whatever the phase. -/
theorem exec_reset (s : State) : exec .reset s = .next s.resetBlock := rfl

/-! ## The obligation -/

/-- Settles O28: the next state holds `Block.reset`, whose registers, flags and buffer are those of R36,
and `resetBlock` leaves `CAP` and the agents' fields. -/
theorem resetSetsEveryRegister : Obligations.ResetSetsEveryRegister := by
  unfold Obligations.ResetSetsEveryRegister
  intro s
  refine ⟨s.resetBlock, exec_reset s, ?_⟩
  rw [State.resetBlock_block]
  exact ⟨Block.reset_phase, Block.reset_rate, Block.reset_seconds, Block.reset_target,
    Block.reset_valid, Block.reset_rawb,
    Block.reset_flag .illegal, Block.reset_flag .cfglock, Block.reset_flag .cap,
    Block.reset_flag .phase, Block.reset_flag .range, Memory.lookup_nil,
    s.resetBlock_cap, s.resetBlock_responses, s.resetBlock_commands, s.resetBlock_samples,
    s.resetBlock_turns⟩

end Sys2Proof.Machine
end

section
/-! Encoding back what was decoded (30_encoding.md R61, R65), and the header as an encoding of its rate and
count (41_encoder.md R101). -/

namespace Sys2Proof

/-! ## The offer of an instruction -/

theorem commandWord_of_op {c : CommandWord} {op : BitVec 8} (hop : (commandOp c).toNat = op.toNat) :
    commandWord op (commandArg c) = c := by
  rw [← BitVec.eq_of_toNat_eq hop, commandWord_fields]

/-- A row of R65 read backwards: the opcode that selected the row is the one the encoder writes. -/
theorem encode_decodeCommand {c : CommandWord} {i : Instr} (h : decodeCommand c = .ok i) :
    encode i = .command c := by
  rw [decodeCommand] at h
  split at h
  case h_10 => cases h
  all_goals
    rename_i hop
    cases h
    rw [encode, commandWord_of_op hop]

/-- The decoder drops no bit of an offer. -/
theorem encode_of_decode {o : Offer} {i : Instr} (h : decode o = .ok i) : encode i = o := by
  cases o with
  | command c => exact encode_decodeCommand h
  | sample w => cases h; rfl
  | reset => cases h; rfl

/-- The input tells the agent: only the command port carries a host's instruction (R60). -/
theorem fromHost_of_decode_command {c : CommandWord} {i : Instr} (h : decode (.command c) = .ok i) :
    i.fromHost = true := by
  have hoffer := encode_of_decode h
  cases i
  case push | reset => cases hoffer
  all_goals rfl

/-- A table word that decodes is the offer of its instruction. -/
theorem offerOfTable_of_decodeTableWord {nbits w : Nat} {i : Instr}
    (h : decodeTableWord nbits w = some i) : offerOfTable nbits w = some (encode i) := by
  rw [decodeTableWord] at h
  cases ho : offerOfTable nbits w with
  | none => simp [ho] at h
  | some o =>
    cases hd : decode o with
    | error e => simp [ho, hd] at h
    | ok j =>
      obtain rfl : j = i := by simpa [ho, hd] using h
      rw [encode_of_decode hd]

end Sys2Proof

namespace Sys2Proof.Machine

/-! ## The obligations -/

/-- Settles O1: the decoder reads back the two fields that the encoder wrote. -/
theorem decodeOfEncodeIsIdentity : Obligations.DecodeOfEncodeIsIdentity :=
  decode_encode

/-- Settles O2: a command word is its opcode and its operand, and the instruction keeps both. -/
theorem encodeOfDecodeIsIdentity : Obligations.EncodeOfDecodeIsIdentity :=
  fun _ _ => encode_of_decode

/-- Settles O24: the rate is the header's field at 24, and the data size at 40 is twice the count, which
does not wrap. -/
theorem headerDeterminesRateAndCount : Obligations.HeaderDeterminesRateAndCount := by
  unfold Obligations.HeaderDeterminesRateAndCount
  intro rate n rate' n' hn hn' heq
  have hrate : rate.toNat = rate'.toNat := by
    rw [← leNat_hdr_sampleRate rate n, heq, leNat_hdr_sampleRate]
  have hsize : 2 * n.toNat = 2 * n'.toNat := by
    rw [← dataBytes_toNat_of_le_capMax hn, ← dataBytes_toNat_of_le_capMax hn',
      ← leNat_hdr_dataSize rate n, heq, leNat_hdr_dataSize]
  exact ⟨BitVec.eq_of_toNat_eq hrate, BitVec.eq_of_toNat_eq (by omega)⟩

end Sys2Proof.Machine
end

section
/-! The effects of the instructions, said once: which flag an instruction raises (60_exceptions.md R151),
and the nine ways in which a next state differs from the state before. -/

namespace Sys2Proof.Machine

/-! ## The cause of an error -/

/-- The flag whose condition of R151 an instruction meets. There is at most one (R154): `READ_PAYLOAD`
checks the phase before the range. -/
def State.cause (s : State) : Instr → Option ErrFlag
  | .setRate _ => if s.block.phase = .idle then none else some .cfglock
  | .setSeconds _ => if s.block.phase = .idle then none else some .cfglock
  | .start _ =>
    if s.block.phase = .idle ∧ s.cap < product s.block.rate s.block.seconds then some .cap else none
  | .readReg sel => if 7 ≤ sel.toNat then some .illegal else none
  | .readPayload a =>
    if s.block.phase ≠ .done then some .phase
    else if payloadLen s.block ≤ a.toNat then some .range
    else none
  | .nop _ => none
  | .release _ => none
  | .readStatus _ => none
  | .narrow _ => none
  | .push _ => none
  | .reset => none

section
variable {s : State} {i : Instr}

theorem State.cause_eq_illegal_iff :
    s.cause i = some .illegal ↔ ∃ sel, i = .readReg sel ∧ 7 ≤ sel.toNat := by
  cases i
  case readPayload a => simp only [State.cause]; split_ifs <;> simp
  all_goals simp [State.cause]

theorem State.cause_eq_cfglock_iff :
    s.cause i = some .cfglock ↔
      (∃ x, i = .setRate x ∨ i = .setSeconds x) ∧ s.block.phase ≠ .idle := by
  cases i
  case readPayload a => simp only [State.cause]; split_ifs <;> simp
  all_goals simp [State.cause]

theorem State.cause_eq_cap_iff :
    s.cause i = some .cap ↔
      (∃ x, i = .start x) ∧ s.block.phase = .idle ∧
        s.cap < product s.block.rate s.block.seconds := by
  cases i
  case readPayload a => simp only [State.cause]; split_ifs <;> simp
  all_goals simp [State.cause]

theorem State.cause_eq_phase_iff :
    s.cause i = some .phase ↔ (∃ a, i = .readPayload a) ∧ s.block.phase ≠ .done := by
  cases i
  case readPayload a => simp only [State.cause]; split_ifs <;> simp_all
  all_goals simp [State.cause]

theorem State.cause_eq_range_iff :
    s.cause i = some .range ↔
      ∃ a, i = .readPayload a ∧ s.block.phase = .done ∧ payloadLen s.block ≤ a.toNat := by
  cases i
  case readPayload a => simp only [State.cause]; split_ifs <;> simp_all
  all_goals simp [State.cause]

end

/-! ## The effects -/

/-- How the next state of an instruction differs from the state before. A host command that meets no
condition of R151 and writes no register responds alone. -/
inductive Effect (s : State) : Instr → State → Prop
  | respond {i : Instr} {v : Word} (host : i.fromHost = true) (quiet : s.cause i = none) :
      Effect s i (s.respond v)
  | raise {i : Instr} {e : ErrFlag} (host : i.fromHost = true) (cause : s.cause i = some e) :
      Effect s i ((s.raise e).respond 0)
  | setRate {r : Word} (idle : s.block.phase = .idle) :
      Effect s (.setRate r) ((s.setRate r).respond 0)
  | setSeconds {d : Word} (idle : s.block.phase = .idle) :
      Effect s (.setSeconds d) ((s.setSeconds d).respond 0)
  | begin {x : Word} (idle : s.block.phase = .idle)
      (fits : product s.block.rate s.block.seconds ≤ s.cap) :
      Effect s (.start x) ((s.beginCapture (product s.block.rate s.block.seconds)).respond 0)
  | release {x : Word} (done : s.block.phase = .done) :
      Effect s (.release x) ((s.setPhase .idle).respond 0)
  | store {w : Word} (capture : s.block.phase = .capture) (room : s.block.valid.toNat < s.cap) :
      Effect s (.push w) (s.setBufEntry s.block.valid.toNat (narrow16 w)).countWord
  | hold {w : Word} (closed : s.block.phase ≠ .capture) : Effect s (.push w) (s.holdSample w)
  | reset : Effect s .reset s.resetBlock

/-- Every next state comes from one of the effects. -/
theorem effect_of_exec {i : Instr} {s t : State} (h : exec i s = .next t) : Effect s i t := by
  cases i with
  | nop x =>
    obtain rfl := execNop_cases (arg := x) h
    exact .respond rfl rfl
  | setRate r =>
    obtain ⟨hidle, rfl⟩ | ⟨hlocked, rfl⟩ := execSetRate_cases h
    · exact .setRate hidle
    · exact .raise rfl (if_neg hlocked)
  | setSeconds d =>
    obtain ⟨hidle, rfl⟩ | ⟨hlocked, rfl⟩ := execSetSeconds_cases h
    · exact .setSeconds hidle
    · exact .raise rfl (if_neg hlocked)
  | start x =>
    obtain ⟨hidle, habove, rfl⟩ | ⟨hidle, hfits, rfl⟩ | ⟨hbusy, rfl⟩ :=
      execStart_cases (arg := x) h
    · exact .raise rfl (if_pos ⟨hidle, habove⟩)
    · exact .begin hidle hfits
    · exact .respond rfl (if_neg fun hcap => hbusy hcap.1)
  | release x =>
    obtain ⟨hdone, rfl⟩ | ⟨-, rfl⟩ := execRelease_cases (arg := x) h
    · exact .release hdone
    · exact .respond rfl rfl
  | readStatus x =>
    obtain rfl := execReadStatus_cases (arg := x) h
    exact .respond rfl rfl
  | readReg sel =>
    obtain ⟨v, hv, rfl⟩ | ⟨hnone, rfl⟩ := execReadReg_cases h
    · have hmap : ¬ 7 ≤ sel.toNat := fun hsel => by
        rw [(s.register_none_iff sel).mpr hsel] at hv
        cases hv
      exact .respond rfl (if_neg hmap)
    · exact .raise rfl (if_pos ((s.register_none_iff sel).mp hnone))
  | readPayload a =>
    obtain ⟨hphase, rfl⟩ | ⟨hdone, hpast, rfl⟩ | ⟨hdone, hin, -, rfl⟩ := execReadPayload_cases h
    · exact .raise rfl (if_pos hphase)
    · exact .raise rfl (by simp [State.cause, hdone, hpast])
    · exact .respond rfl (by simp [State.cause, hdone, hin])
  | narrow w =>
    obtain rfl := execNarrow_cases h
    exact .respond rfl rfl
  | push w =>
    obtain ⟨hcapture, hroom, rfl⟩ | ⟨hclosed, rfl⟩ := execPush_cases h
    · exact .store hcapture hroom
    · exact .hold hclosed
  | reset =>
    obtain rfl := execReset_cases h
    exact .reset

/-! ## What every effect keeps -/

section
variable {s t : State} {i : Instr}

theorem Effect.cap_eq (h : Effect s i t) : t.cap = s.cap := by
  cases h <;> simp

theorem Effect.turns_eq (h : Effect s i t) : t.turns = s.turns := by
  cases h <;> simp

theorem Effect.commands_eq (h : Effect s i t) : t.commands = s.commands := by
  cases h <;> simp

/-- A host's command leaves the source's words. -/
theorem Effect.samples_eq (h : Effect s i t) (hhost : i.fromHost = true) : t.samples = s.samples := by
  cases h
  case hold => cases hhost
  all_goals simp

/-- Only a push in `CAPTURE` writes the buffer, and only a reset draws it anew. -/
theorem Effect.buf_eq (h : Effect s i t) (hhost : i.fromHost = true) : t.block.buf = s.block.buf := by
  cases h
  case store | reset => cases hhost
  all_goals simp

theorem Effect.bufDraw_eq (h : Effect s i t) (hreset : i ≠ .reset) : t.bufDraw = s.bufDraw := by
  cases h
  case reset => exact absurd rfl hreset
  all_goals simp

/-- R129: the host hears exactly once of each of its commands. -/
theorem Effect.responses_host (h : Effect s i t) (hhost : i.fromHost = true) :
    ∃ v, t.responses = s.responses ++ [v] := by
  cases h
  case store | hold | reset => cases hhost
  case raise => exact ⟨0, by simp⟩
  all_goals exact ⟨_, rfl⟩

theorem Effect.responses_other (h : Effect s i t) (hother : i.fromHost = false) :
    t.responses = s.responses := by
  cases h
  case store | hold | reset => rfl
  case respond host _ | raise host _ => simp [hother] at host
  all_goals cases hother

/-- R151: an instruction other than a reset sets the flag of its cause and leaves the others. -/
theorem Effect.flag_eq (h : Effect s i t) (hreset : i ≠ .reset) (e : ErrFlag) :
    t.block.flag e = (s.block.flag e || decide (s.cause i = some e)) := by
  cases h
  case respond quiet => simp [quiet]
  case raise cause => simp [cause]
  case reset => exact absurd rfl hreset
  case setRate idle | setSeconds idle => cases e <;> simp [State.cause, idle, Block.flag]
  case begin fits => cases e <;> simp [State.cause, Nat.not_lt.mpr fits, Block.flag]
  case release | store | hold => cases e <;> simp [State.cause, Block.flag]

theorem Effect.flag_eq_of_not_cause (h : Effect s i t) (hreset : i ≠ .reset) {e : ErrFlag}
    (hcause : s.cause i ≠ some e) : t.block.flag e = s.block.flag e := by
  rw [h.flag_eq hreset, decide_eq_false hcause, Bool.or_false]

end

end Sys2Proof.Machine
end

section
/-! Frames (10_state.md R34) and the causes of the flags (60_exceptions.md R151), read off the effects. -/

namespace Sys2Proof.Machine

section
variable {s t : State} {i : Instr}

theorem ne_reset_of_fromHost (hhost : i.fromHost = true) : i ≠ .reset := by
  rintro rfl
  cases hhost

/-- A host command leaves `CAP`, the offers still pending and the draw. -/
theorem Effect.agents_eq (h : Effect s i t) (hhost : i.fromHost = true) :
    t.cap = s.cap ∧ t.commands = s.commands ∧ t.samples = s.samples ∧ t.turns = s.turns ∧
      t.bufDraw = s.bufDraw :=
  ⟨h.cap_eq, h.commands_eq, h.samples_eq hhost, h.turns_eq, h.bufDraw_eq (ne_reset_of_fromHost hhost)⟩

/-- A host command leaves every byte of the buffer. -/
theorem Effect.bufByte_eq (h : Effect s i t) (hhost : i.fromHost = true) (a : Nat) :
    t.bufByte a = s.bufByte a :=
  State.bufByte_congr (h.buf_eq hhost) (h.bufDraw_eq (ne_reset_of_fromHost hhost)) a

theorem Effect.flag_iff (h : Effect s i t) (hreset : i ≠ .reset) (e : ErrFlag) :
    t.block.flag e = true ↔ s.block.flag e = true ∨ s.cause i = some e := by
  rw [h.flag_eq hreset, Bool.or_eq_true, decide_eq_true_iff]

end

/-! ## The obligations -/

/-- Settles O30: the five commands respond alone or raise their own flag. -/
theorem readingCommandsFrame : Obligations.ReadingCommandsFrame := by
  unfold Obligations.ReadingCommandsFrame
  intro i s t hi h
  have he := effect_of_exec h
  have hhost : i.fromHost = true := by
    obtain ⟨x, rfl | rfl | rfl | rfl | rfl⟩ := hi <;> rfl
  have hflag {e : ErrFlag} (hcause : s.cause i ≠ some e) : t.block.flag e = s.block.flag e :=
    he.flag_eq_of_not_cause (ne_reset_of_fromHost hhost) hcause
  obtain ⟨hphase, hrate, hseconds, htarget, hvalid, hrawb⟩ :
      t.block.phase = s.block.phase ∧ t.block.rate = s.block.rate ∧
      t.block.seconds = s.block.seconds ∧ t.block.target = s.block.target ∧
      t.block.valid = s.block.valid ∧ t.block.rawb = s.block.rawb := by
    cases he
    case respond | raise => simp
    all_goals simp at hi
  refine ⟨hphase, hrate, hseconds, htarget, hvalid, hrawb, he.bufByte_eq hhost,
    fun hsel => hflag (e := .illegal) fun hc => ?illegal,
    hflag (e := .cfglock) fun hc => ?cfglock, hflag (e := .cap) fun hc => ?cap,
    fun hdone => hflag (e := .phase) fun hc => ?phase,
    fun hin => hflag (e := .range) fun hc => ?range, he.agents_eq hhost⟩
  case illegal =>
    obtain ⟨sel, hread, hpast⟩ := State.cause_eq_illegal_iff.mp hc
    exact absurd (hsel sel hread) (Nat.not_lt.mpr hpast)
  case cfglock =>
    obtain ⟨⟨x, rfl | rfl⟩, -⟩ := State.cause_eq_cfglock_iff.mp hc <;> simp at hi
  case cap =>
    obtain ⟨⟨x, rfl⟩, -⟩ := State.cause_eq_cap_iff.mp hc
    simp at hi
  case phase =>
    obtain ⟨⟨a, hread⟩, hbusy⟩ := State.cause_eq_phase_iff.mp hc
    exact hbusy (hdone a hread)
  case range =>
    obtain ⟨a, hread, hphase', hpast⟩ := State.cause_eq_range_iff.mp hc
    exact absurd (hin a hread hphase') (Nat.not_lt.mpr hpast)

/-- Settles O31: in `IDLE` one register is written, elsewhere `ERR_CFGLOCK` is raised. -/
theorem configurationFrame : Obligations.ConfigurationFrame := by
  unfold Obligations.ConfigurationFrame
  intro i s t hi h
  have he := effect_of_exec h
  have hhost : i.fromHost = true := by
    obtain ⟨x, rfl | rfl⟩ := hi <;> rfl
  have hflag {e : ErrFlag} (hcause : s.cause i ≠ some e) : t.block.flag e = s.block.flag e :=
    he.flag_eq_of_not_cause (ne_reset_of_fromHost hhost) hcause
  have hcause {e : ErrFlag} (hother : e ≠ .cfglock) : s.cause i ≠ some e := by
    obtain ⟨x, rfl | rfl⟩ := hi <;> simp [State.cause, hother.symm]
  obtain ⟨hphase, hrate, hseconds, htarget, hvalid, hrawb⟩ :
      t.block.phase = s.block.phase ∧
      ((∀ r, i ≠ .setRate r) → t.block.rate = s.block.rate) ∧
      ((∀ d, i ≠ .setSeconds d) → t.block.seconds = s.block.seconds) ∧
      t.block.target = s.block.target ∧ t.block.valid = s.block.valid ∧
      t.block.rawb = s.block.rawb := by
    cases he
    case respond | raise | setRate | setSeconds => simp
    all_goals simp at hi
  exact ⟨hphase, hrate, hseconds, htarget, hvalid, hrawb, he.bufByte_eq hhost,
    hflag (e := .illegal) (hcause (by decide)),
    fun hidle => hflag (e := .cfglock) fun hc => (State.cause_eq_cfglock_iff.mp hc).2 hidle,
    hflag (e := .cap) (hcause (by decide)), hflag (e := .phase) (hcause (by decide)),
    hflag (e := .range) (hcause (by decide)), he.agents_eq hhost⟩

/-- Settles O32: `START` raises `ERR_CAP` or begins a capture, `RELEASE` writes the phase alone. -/
theorem phaseCommandsFrame : Obligations.PhaseCommandsFrame := by
  unfold Obligations.PhaseCommandsFrame
  intro i s t hi h
  have he := effect_of_exec h
  have hhost : i.fromHost = true := by
    obtain ⟨x, rfl | rfl⟩ := hi <;> rfl
  have hflag {e : ErrFlag} (hcause : s.cause i ≠ some e) : t.block.flag e = s.block.flag e :=
    he.flag_eq_of_not_cause (ne_reset_of_fromHost hhost) hcause
  have hcause {e : ErrFlag} (hother : e ≠ .cap) : s.cause i ≠ some e := by
    obtain ⟨x, rfl | rfl⟩ := hi <;> simp [State.cause, hother.symm]
  obtain ⟨hrate, hseconds, hcounters⟩ :
      t.block.rate = s.block.rate ∧ t.block.seconds = s.block.seconds ∧
      ((∀ x, i ≠ .start x) → t.block.target = s.block.target ∧ t.block.valid = s.block.valid ∧
        t.block.rawb = s.block.rawb) := by
    cases he
    case respond | raise | begin | release => simp
    all_goals simp at hi
  refine ⟨hrate, hseconds, fun hstart => ?release, he.bufByte_eq hhost,
    hflag (e := .illegal) (hcause (by decide)), hflag (e := .cfglock) (hcause (by decide)),
    hflag (e := .phase) (hcause (by decide)), hflag (e := .range) (hcause (by decide)),
    he.agents_eq hhost⟩
  case release =>
    obtain ⟨htarget, hvalid, hrawb⟩ := hcounters hstart
    have hcap : t.block.errCap = s.block.errCap := hflag (e := .cap) fun hc => by
      obtain ⟨⟨x, rfl⟩, -⟩ := State.cause_eq_cap_iff.mp hc
      exact hstart x rfl
    exact ⟨htarget, hvalid, hrawb, hcap⟩

/-- Settles O33: a push stores its sample at entry `VALID` or is held by the source. -/
theorem pushFrame : Obligations.PushFrame := by
  unfold Obligations.PushFrame
  intro w s t h
  have he := effect_of_exec h
  have hflag (e : ErrFlag) : t.block.flag e = s.block.flag e :=
    he.flag_eq_of_not_cause (by simp) (by simp [State.cause])
  cases he
  case respond host _ | raise host _ => cases host
  case store hcapture _ =>
    refine ⟨rfl, rfl, rfl, hflag, fun a hlow hhigh => ?_, fun hclosed => absurd hcapture hclosed,
      fun _ => rfl, rfl, rfl, rfl, rfl, rfl⟩
    rw [State.countWord_bufByte, State.setBufEntry_bufByte_other _ _ _ _ hlow hhigh]
  case hold hclosed =>
    exact ⟨rfl, rfl, rfl, hflag, fun _ _ _ => rfl, fun _ => ⟨rfl, rfl⟩,
      fun hcapture => absurd hcapture hclosed, rfl, rfl, rfl, rfl, rfl⟩

/-- Settles O34: each effect writes its own registers and carries the phase in which it does. -/
theorem registerWriters : Obligations.RegisterWriters := by
  unfold Obligations.RegisterWriters
  intro i s t h hreset
  cases effect_of_exec h
  case respond | raise | hold => simp
  case setRate hidle | setSeconds hidle | begin hidle _ => simp [hidle]
  case release hdone => simp [hdone]
  case store hcapture _ =>
    simpa [hcapture, not_imp_comm] using
      fun k hk => s.setBufEntry_bufEntry_other s.block.valid.toNat k _ hk
  case reset => exact absurd rfl hreset

/-- Settles O35: a flag is set by its cause and by nothing else. -/
theorem errorCauses : Obligations.ErrorCauses := by
  unfold Obligations.ErrorCauses
  intro i s t h hreset
  have hflag := (effect_of_exec h).flag_iff hreset
  exact ⟨(hflag .illegal).trans (or_congr_right State.cause_eq_illegal_iff),
    (hflag .cfglock).trans (or_congr_right State.cause_eq_cfglock_iff),
    (hflag .cap).trans (or_congr_right State.cause_eq_cap_iff),
    (hflag .phase).trans (or_congr_right State.cause_eq_phase_iff),
    (hflag .range).trans (or_congr_right State.cause_eq_range_iff)⟩

end Sys2Proof.Machine
end

section
/-! The turns (20_memory.md R48): which offer a turn takes, what the step then runs, and what one step does
to the flags. -/

namespace Sys2Proof.Machine

variable {s s' t : State}

/-! ## The offer of a turn -/

theorem State.takeOffer_source {w : Word} {ws : List Word} {ts : List Agent}
    (hturns : s.turns = .source :: ts) (hsamples : s.samples = w :: ws) :
    s.takeOffer = some (.sample w, { s with turns := ts, samples := ws }) := by
  rw [State.takeOffer, hturns, hsamples]

theorem State.takeOffer_reset {ts : List Agent} (hturns : s.turns = .reset :: ts) :
    s.takeOffer = some (.reset, { s with turns := ts }) := by
  rw [State.takeOffer, hturns]

theorem State.takeOffer_no_turn (hturns : s.turns = []) : s.takeOffer = none := by
  rw [State.takeOffer, hturns]

theorem State.takeOffer_host_nil {ts : List Agent} (hturns : s.turns = .host :: ts)
    (hcommands : s.commands = []) : s.takeOffer = none := by
  rw [State.takeOffer, hturns, hcommands]

theorem State.takeOffer_source_nil {ts : List Agent} (hturns : s.turns = .source :: ts)
    (hsamples : s.samples = []) : s.takeOffer = none := by
  rw [State.takeOffer, hturns, hsamples]

/-- An offer placed first is the one taken, and taking it gives back the state without it. -/
theorem State.takeOffer_offerNext (o : Offer) (s : State) : (s.offerNext o).takeOffer = some (o, s) := by
  cases o <;> rfl

/-- A push is offered at the source's turn. -/
theorem State.takeOffer_of_push {o : Offer} {w : Word} (htake : s.takeOffer = some (o, s'))
    (hdecode : decode o = .ok (.push w)) : (∃ ts, s.turns = .source :: ts) ∧ s.samples ≠ [] := by
  obtain rfl : Offer.sample w = o := encode_of_decode hdecode
  obtain ⟨c, cs, ts, ho, -⟩ | ⟨v, ws, ts, -, hturns, hsamples, -⟩ | ⟨ts, ho, -⟩ :=
    State.takeOffer_cases htake
  · cases ho
  · exact ⟨⟨ts, hturns⟩, by simp [hsamples]⟩
  · cases ho

/-- A reset is offered at its own turn. -/
theorem State.takeOffer_of_reset {o : Offer} (htake : s.takeOffer = some (o, s'))
    (hdecode : decode o = .ok .reset) : ∃ ts, s.turns = .reset :: ts := by
  obtain rfl : Offer.reset = o := encode_of_decode hdecode
  obtain ⟨c, cs, ts, ho, -⟩ | ⟨w, ws, ts, ho, -⟩ | ⟨ts, -, hturns, -⟩ := State.takeOffer_cases htake
  · cases ho
  · cases ho
  · exact ⟨ts, hturns⟩

/-! ## The step of a turn -/

theorem State.passTurn_of_no_turn (hturns : s.turns = []) : s.passTurn = s := by
  rw [State.passTurn, hturns, List.tail_nil, ← hturns]

theorem State.passTurn_of_turn {x : Agent} {ts : List Agent} (hturns : s.turns = x :: ts) :
    s.passTurn = { s with turns := ts } := by
  rw [State.passTurn, hturns, List.tail_cons]

theorem step_of_takeOffer_none (h : s.takeOffer = none) : step s = .next s.passTurn := by
  rw [step, h]

theorem step_of_decode {o : Offer} {i : Instr} (htake : s.takeOffer = some (o, s'))
    (hdecode : decode o = .ok i) : step s = exec i s' := by
  rw [step_of_takeOffer htake, runOffer, hdecode]

/-- Only an instruction can stop a step: an idle turn and an illegal command have a next state. -/
theorem step_next_or_exec (s : State) : (∃ t, step s = .next t) ∨
    ∃ o i s', s.takeOffer = some (o, s') ∧ decode o = .ok i ∧ step s = exec i s' := by
  cases htake : s.takeOffer with
  | none => exact .inl ⟨_, step_of_takeOffer_none htake⟩
  | some taken =>
    obtain ⟨o, s'⟩ := taken
    cases hdecode : decode o with
    | ok i => exact .inr ⟨o, i, s', rfl, hdecode, step_of_decode htake hdecode⟩
    | error e =>
      rw [step_of_takeOffer htake, runOffer, hdecode]
      exact .inl ⟨_, rfl⟩

/-- No arm of `exec` is refused. -/
theorem exec_ne_refused (i : Instr) (s : State) (r : Refusal) : exec i s ≠ .refused r := by
  cases i with
  | nop x | readStatus x | narrow x | reset => simp [exec, execNop, execReadStatus, execNarrow, execReset]
  | setRate x => simp [exec_setRate]
  | setSeconds x => simp [exec_setSeconds]
  | start x => simp [exec_start]
  | release x => simp [exec_release]
  | readReg sel => rw [exec, execReadReg]; split <;> simp
  | readPayload a => rw [exec, execReadPayload]; split_ifs <;> simp
  | push w =>
    rw [exec, execPush]
    split
    · split_ifs <;> simp
    all_goals simp

/-- A flag that a step sets is the cause of the step's transaction, or `ERR_ILLEGAL` by R128. -/
theorem flag_of_step (h : step s = .next t) (hreset : ∀ ts, s.turns ≠ .reset :: ts) :
    ∃ raised : Option ErrFlag, ∀ e, t.block.flag e = (s.block.flag e || decide (raised = some e)) := by
  obtain ⟨-, rfl⟩ | ⟨o, i, s', htake, hdecode, hexec⟩ | ⟨c, op, s', htake, -, rfl⟩ := step_cases h
  · exact ⟨none, by simp⟩
  · have hi : i ≠ .reset := by
      rintro rfl
      obtain ⟨ts, hturns⟩ := State.takeOffer_of_reset htake hdecode
      exact hreset ts hturns
    refine ⟨s'.cause i, fun e => ?_⟩
    rw [(effect_of_exec hexec).flag_eq hi e, (State.takeOffer_frame htake).1]
  · refine ⟨some .illegal, fun e => ?_⟩
    simp [(State.takeOffer_frame htake).1]

theorem step_of_reset_turn {ts : List Agent} (hturns : s.turns = .reset :: ts) :
    step s = .next { s with turns := ts }.resetBlock :=
  step_of_decode (State.takeOffer_reset hturns) decode_reset

/-! ## The obligations -/

/-- Settles O36: outside a reset's turn a step only sets flags, and a reset's turn puts the block at its
reset value. -/
theorem flagsAreSticky : Obligations.FlagsAreSticky := by
  unfold Obligations.FlagsAreSticky
  refine fun s t h => ⟨fun hother e hset => ?_, fun ts hturns e => ?_⟩
  · obtain ⟨raised, hflag⟩ := flag_of_step h hother
    rw [hflag e, hset, Bool.true_or]
  · obtain rfl : State.resetBlock { s with turns := ts } = t := by
      simpa [step_of_reset_turn hturns] using h
    exact Block.reset_flag e

/-- Settles O37: a step raises the one flag that it raises, if any. -/
theorem oneFlagPerTransaction : Obligations.OneFlagPerTransaction := by
  unfold Obligations.OneFlagPerTransaction
  intro s t e e' h hclear hset hclear' hset'
  by_cases hreset : ∃ ts, s.turns = .reset :: ts
  · obtain ⟨ts, hturns⟩ := hreset
    rw [(flagsAreSticky s t h).2 ts hturns e] at hset
    cases hset
  · obtain ⟨raised, hflag⟩ := flag_of_step h (not_exists.mp hreset)
    have he : raised = some e := by simpa [hclear, hset] using hflag e
    have he' : raised = some e' := by simpa [hclear', hset'] using hflag e'
    exact Option.some.inj (he.symm.trans he')

/-- Settles O48: an idle turn and an illegal command have a next state, and no instruction is refused. -/
theorem stepNeverRefuses : Obligations.StepNeverRefuses := by
  unfold Obligations.StepNeverRefuses
  intro s r
  obtain ⟨t, hnext⟩ | ⟨o, i, s', -, -, hexec⟩ := step_next_or_exec s
  · simp [hnext]
  · rw [hexec]
    exact exec_ne_refused i s' r

/-- Settles O49: taking an offer, raising a flag and every effect leave `CAP`. -/
theorem capacityIsHardwired : Obligations.CapacityIsHardwired := by
  unfold Obligations.CapacityIsHardwired
  intro s t h
  obtain ⟨-, rfl⟩ | ⟨o, i, s', htake, -, hexec⟩ | ⟨c, op, s', htake, -, rfl⟩ := step_cases h
  · exact s.passTurn_cap
  all_goals obtain ⟨-, hcap, -⟩ := State.takeOffer_frame htake
  · exact (effect_of_exec hexec).cap_eq.trans hcap
  · simpa using hcap

/-- Settles O41: at each agent's turn the offer is taken from its own list. -/
theorem stepRunsDecodedInstruction : Obligations.StepRunsDecodedInstruction :=
  fun _ _ _ _ =>
    ⟨fun _ _ hturns hcommands => step_of_decode (State.takeOffer_host hturns hcommands),
      fun _ _ hturns hsamples => step_of_decode (State.takeOffer_source hturns hsamples),
      fun hturns => step_of_decode (State.takeOffer_reset hturns)⟩

/-- Settles O42: the table word is the offer of its instruction, and the offer placed first is taken
first. -/
theorem placedInstructionRunsNext : Obligations.PlacedInstructionRunsNext := by
  unfold Obligations.PlacedInstructionRunsNext
  intro s nbits w i h
  rw [State.withFetchWord, offerOfTable_of_decodeTableWord h]
  exact step_of_decode (State.takeOffer_offerNext _ _) (decode_encode i)

/-- Settles O43: with nothing offered the step is the passing of the turn. -/
theorem nothingOfferedChangesNothing : Obligations.NothingOfferedChangesNothing := by
  unfold Obligations.NothingOfferedChangesNothing
  refine fun s => ⟨fun hturns => ?_, fun ts hturns hnone => ?_, fun ts hturns hnone => ?_⟩
  · rw [step_of_takeOffer_none (State.takeOffer_no_turn hturns), State.passTurn_of_no_turn hturns]
  · rw [step_of_takeOffer_none (State.takeOffer_host_nil hturns hnone), State.passTurn_of_turn hturns]
  · rw [step_of_takeOffer_none (State.takeOffer_source_nil hturns hnone), State.passTurn_of_turn hturns]

end Sys2Proof.Machine
end

section
/-! R32 (10_state.md section 4): every effect keeps the invariant, and in its states every instruction has
a next state. -/

namespace Sys2Proof.Machine

variable {s t : State}

/-! ## The invariant under each update -/

/-- R32 speaks of the block and of `CAP` alone. -/
theorem State.Inv.congr (h : s.Inv) (hblock : t.block = s.block) (hcap : t.cap = s.cap) : t.Inv := by
  cases s
  cases t
  cases hblock
  cases hcap
  exact { h with }

theorem State.Inv.raise (h : s.Inv) (e : ErrFlag) : (s.raise e).Inv := by
  cases e <;> exact { h with }

theorem State.Inv.respond (h : s.Inv) (v : Word) : (s.respond v).Inv :=
  h.congr rfl rfl

/-- In `IDLE` the configuration is not locked. -/
theorem State.Inv.setRate (h : s.Inv) (hidle : s.block.phase = .idle) (r : Word) : (s.setRate r).Inv :=
  { h with targetLocked := fun hbusy => absurd hidle hbusy }

theorem State.Inv.setSeconds (h : s.Inv) (hidle : s.block.phase = .idle) (d : Word) :
    (s.setSeconds d).Inv :=
  { h with targetLocked := fun hbusy => absurd hidle hbusy }

theorem State.Inv.setPhase_idle (h : s.Inv) : (s.setPhase .idle).Inv :=
  { h with
    captureRoom := nofun
    doneFull := nofun
    targetLocked := fun hbusy => absurd rfl hbusy }

/-- An accepted `START` counts from 0 up to a product that fits `TARGET`. -/
theorem State.Inv.beginCapture (h : s.Inv) (hfits : product s.block.rate s.block.seconds ≤ s.cap) :
    (s.beginCapture (product s.block.rate s.block.seconds)).Inv := by
  have htarget := word_ofNat_toNat (lt_word_of_le_cap h.capLegal hfits)
  refine { h with
    validLeTarget := Nat.zero_le _
    targetLeCap := htarget.trans_le hfits
    rawbCounts := rfl
    captureRoom := fun hcapture => ?room
    doneFull := fun hdone => ?full
    targetLocked := fun _ => htarget
    written := fun a ha => absurd ha (Nat.not_lt_zero a) }
  case room =>
    have hpos : product s.block.rate s.block.seconds ≠ 0 := fun hzero => by
      simp [hzero] at hcapture
    exact htarget.symm ▸ Nat.pos_of_ne_zero hpos
  case full =>
    have hzero : product s.block.rate s.block.seconds = 0 := by
      simpa using hdone
    simp [hzero]

/-- The listed bytes after a store: those of the entry and those before. -/
theorem Memory.isSome_lookup_storeSample (m : Memory) (k a : Nat) (v : Sample) :
    (Memory.lookup (Memory.storeSample m k v) a).isSome = true ↔
      (a = 2 * k ∨ a = 2 * k + 1) ∨ (Memory.lookup m a).isSome = true := by
  by_cases hlow : a = 2 * k
  · simp [hlow]
  · by_cases hhigh : a = 2 * k + 1
    · simp [hhigh]
    · simp [hlow, hhigh, Memory.lookup_storeSample_other m k a v hlow hhigh]

/-- An accepted push writes entry `VALID`, which lies below `CAP`, before it counts it. -/
theorem State.Inv.store (h : s.Inv) (hcapture : s.block.phase = .capture) (v : Sample) :
    (s.setBufEntry s.block.valid.toNat v).countWord.Inv := by
  have hvalid := h.valid_succ_toNat hcapture
  have hroom := h.captureRoom hcapture
  refine { h with
    validLeTarget := hvalid.trans_le hroom
    rawbCounts := ?counts
    captureRoom := fun hphase => ?room
    doneFull := fun hphase => BitVec.eq_of_toNat_eq (hvalid.trans ?full)
    targetLocked := fun _ => h.targetLocked (by simp [hcapture])
    written := fun a ha => (Memory.isSome_lookup_storeSample _ _ a v).mpr ?written
    bufWf := Memory.storeSample_wf _ _ v h.bufWf
    bufInRange := fun a ha => ?range }
  case counts =>
    have hrawb := h.rawb_add_four_toNat hcapture
    have hcounts := h.rawbCounts
    simp only [State.countWord_block_rawb, State.countWord_block_valid, State.setBufEntry_block_rawb,
      State.setBufEntry_block_valid]
    omega
  case room =>
    have hlast : s.block.valid.toNat + 1 ≠ s.block.target.toNat := fun hlast => by
      simp [hlast] at hphase
    exact hvalid.trans_lt (by simp only [State.countWord_block_target, State.setBufEntry_block_target]; omega)
  case full => simpa [hcapture] using hphase
  case written =>
    have hbelow : a < 2 * (s.block.valid.toNat + 1) := hvalid ▸ ha
    by_cases hold : a < 2 * s.block.valid.toNat
    · exact .inr (h.written a hold)
    · exact .inl (by omega)
  case range =>
    have hcap := h.valid_lt_cap hcapture
    obtain hentry | hold := (Memory.isSome_lookup_storeSample _ _ a v).mp ha
    · simp only [State.countWord_cap, State.setBufEntry_cap]
      omega
    · exact h.bufInRange a hold

/-- The reset values of R36 meet R32 in every legal build. -/
theorem State.inv_of_block_reset (hblock : s.block = Block.reset) (hcap : Config.capLegal s.cap) :
    s.Inv := by
  have hreset : (State.resetOf s.cap).Inv :=
    { capLegal := hcap
      validLeTarget := le_rfl
      targetLeCap := Nat.zero_le _
      rawbCounts := rfl
      captureRoom := nofun
      doneFull := nofun
      targetLocked := fun hbusy => absurd rfl hbusy
      written := fun a ha => absurd ha (Nat.not_lt_zero a)
      bufWf := rfl
      bufInRange := nofun }
  exact hreset.congr hblock rfl

theorem Effect.inv {i : Instr} (h : Effect s i t) (hinv : s.Inv) : t.Inv := by
  cases h with
  | respond => exact hinv.respond _
  | raise => exact (hinv.raise _).respond 0
  | setRate hidle => exact (hinv.setRate hidle _).respond 0
  | setSeconds hidle => exact (hinv.setSeconds hidle _).respond 0
  | begin _ hfits => exact (hinv.beginCapture hfits).respond 0
  | release => exact hinv.setPhase_idle.respond 0
  | store hcapture => exact hinv.store hcapture _
  | hold => exact hinv.congr rfl rfl
  | reset => exact State.inv_of_block_reset rfl hinv.capLegal

theorem State.Inv.takeOffer {o : Offer} (hinv : s.Inv) (htake : s.takeOffer = some (o, t)) : t.Inv := by
  obtain ⟨hblock, hcap, -⟩ := State.takeOffer_frame htake
  exact hinv.congr hblock hcap

theorem State.Inv.step (hinv : s.Inv) (h : step s = .next t) : t.Inv := by
  obtain ⟨-, rfl⟩ | ⟨o, i, s', htake, -, hexec⟩ | ⟨c, op, s', htake, -, rfl⟩ := step_cases h
  · exact hinv.congr rfl rfl
  · exact (effect_of_exec hexec).inv (hinv.takeOffer htake)
  · exact ((hinv.takeOffer htake).raise .illegal).respond 0

/-! ## A next state -/

/-- A host command has a next state where the payload that `DONE` offers lies in the buffer. -/
theorem exec_next_of_fromHost {i : Instr} (hhost : i.fromHost = true)
    (hpayload : s.block.phase = .done → s.block.valid.toNat ≤ s.cap) : ∃ t, exec i s = .next t := by
  cases i with
  | nop x => exact ⟨_, rfl⟩
  | setRate r => exact ⟨_, exec_setRate s r⟩
  | setSeconds d => exact ⟨_, exec_setSeconds s d⟩
  | start x => exact ⟨_, exec_start s x⟩
  | release x => exact ⟨_, exec_release s x⟩
  | readStatus x => exact ⟨_, rfl⟩
  | readReg sel =>
    cases hv : s.register sel with
    | some v => exact ⟨_, exec_readReg_of_register hv⟩
    | none => exact ⟨_, exec_readReg_of_illegal ((s.register_none_iff sel).mp hv)⟩
  | readPayload a =>
    by_cases hdone : s.block.phase = .done
    · rcases Nat.lt_or_ge a.toNat (payloadLen s.block) with hin | hpast
      · exact ⟨_, exec_readPayload_of_lt hdone (hpayload hdone) hin⟩
      · exact ⟨_, exec_readPayload_of_past_end hdone hpast⟩
    · exact ⟨_, exec_readPayload_of_not_done a hdone⟩
  | narrow w => exact ⟨_, rfl⟩
  | push w => cases hhost
  | reset => cases hhost

/-- R83: outside `CAPTURE` the source keeps its word. -/
theorem execPush_of_not_capture (w : Word) (hclosed : s.block.phase ≠ .capture) :
    execPush w s = .next (s.holdSample w) := by
  cases hphase : s.block.phase with
  | capture => exact absurd hphase hclosed
  | idle => rw [execPush, hphase]
  | done => rw [execPush, hphase]

theorem State.Inv.exec_next (hinv : s.Inv) (i : Instr) : ∃ t, exec i s = .next t := by
  cases hi : i.fromHost with
  | true => exact exec_next_of_fromHost hi fun _ => hinv.valid_le_cap
  | false =>
    cases i with
    | push w =>
      by_cases hcapture : s.block.phase = .capture
      · exact ⟨_, execPush_of_capture w hcapture (hinv.valid_lt_cap hcapture)⟩
      · exact ⟨_, execPush_of_not_capture w hcapture⟩
    | reset => exact ⟨_, exec_reset s⟩
    | _ => cases hi

theorem State.Inv.step_next (hinv : s.Inv) : ∃ t, Machine.step s = .next t := by
  obtain hnext | ⟨o, i, s', htake, -, hexec⟩ := step_next_or_exec s
  · exact hnext
  · rw [hexec]
    exact (hinv.takeOffer htake).exec_next i

/-- One step of a run. -/
theorem stepAll_succ_of_next (k : Nat) (h : step s = .next t) : stepAll (k + 1) s = stepAll k t := by
  rw [stepAll, h]

/-- A run from a state of R32 stays in R32 and never stops. -/
theorem State.Inv.stepAll (hinv : s.Inv) (k : Nat) :
    ∃ t, Machine.stepAll k s = some t ∧ t.Inv ∧ t.cap = s.cap := by
  induction k generalizing s with
  | zero => exact ⟨s, rfl, hinv, rfl⟩
  | succ k ih =>
    obtain ⟨u, hu⟩ := hinv.step_next
    obtain ⟨t, hrun, ht, hcap⟩ := ih (hinv.step hu)
    exact ⟨t, (stepAll_succ_of_next k hu).trans hrun, ht, hcap.trans (capacityIsHardwired s u hu)⟩

/-! ## The obligations -/

/-- Settles O44: the power-on block holds the reset values. -/
theorem invariantHoldsAtReset : Obligations.InvariantHoldsAtReset :=
  ⟨fun cap => State.inv_of_block_reset (State.resetOf_block cap),
    State.inv_of_block_reset (State.resetOf_block _) (by decide)⟩

/-- Settles O45: each effect keeps R32. -/
theorem stepKeepsInvariant : Obligations.StepKeepsInvariant :=
  fun _ _ => State.Inv.step

/-- Settles O46: R32 keeps every access within the buffer. -/
theorem stepNeverStops : Obligations.StepNeverStops :=
  fun _ => State.Inv.step_next

/-- Settles O47, by induction on the number of steps from the power-on state. -/
theorem everyRunMeetsInvariant : Obligations.EveryRunMeetsInvariant :=
  fun _ _ _ _ k hcap => (State.inv_of_block_reset rfl hcap).stepAll k

/-- Settles O38: R32 gives the next state, and the effect its responses. -/
theorem oneResponsePerCommand : Obligations.OneResponsePerCommand := by
  unfold Obligations.OneResponsePerCommand
  intro i s hinv
  obtain ⟨t, hexec⟩ := hinv.exec_next i
  have he := effect_of_exec hexec
  exact ⟨t, hexec, he.responses_host, he.responses_other⟩

end Sys2Proof.Machine
end

section
/-! A capture from its first word to its payload (40_acquisition.md R82-R86, 70_reset_and_hazards.md R174),
and how it ends. -/

namespace Sys2Proof.Machine

variable {s t : State}

/-! ## The phase against the counters -/

/-- R32 items 3 and 4: outside `IDLE` the phase is told by whether the target is reached. -/
theorem State.Inv.done_iff (hinv : s.Inv) (hbusy : s.block.phase ≠ .idle) :
    s.block.phase = .done ↔ s.block.valid.toNat = s.block.target.toNat := by
  refine ⟨fun hdone => congrArg BitVec.toNat (hinv.doneFull hdone), fun hfull => ?_⟩
  cases hphase : s.block.phase with
  | idle => exact absurd hphase hbusy
  | capture => exact absurd hfull (hinv.captureRoom hphase).ne
  | done => rfl

theorem State.Inv.capture_iff (hinv : s.Inv) (hbusy : s.block.phase ≠ .idle) :
    s.block.phase = .capture ↔ s.block.valid.toNat < s.block.target.toNat := by
  refine ⟨hinv.captureRoom, fun hroom => ?_⟩
  cases hphase : s.block.phase with
  | idle => exact absurd hphase hbusy
  | capture => rfl
  | done => exact absurd ((hinv.done_iff hbusy).mp hphase) hroom.ne

/-! ## The words of a capture -/

/-- `t` is `s` with the words `ws` accepted: counted and stored from entry `VALID` on. -/
structure Captured (s : State) (ws : List Word) (t : State) : Prop where
  inv : t.Inv
  busy : t.block.phase ≠ .idle
  rate : t.block.rate = s.block.rate
  target : t.block.target = s.block.target
  responses : t.responses = s.responses
  valid : t.block.valid.toNat = s.block.valid.toNat + ws.length
  stored : ∀ k w, ws[k]? = some w → t.bufEntry (s.block.valid.toNat + k) = narrow16 w
  kept : ∀ k, k < s.block.valid.toNat → t.bufEntry k = s.bufEntry k

theorem Captured.nil (hinv : s.Inv) (hbusy : s.block.phase ≠ .idle) : Captured s [] s where
  inv := hinv
  busy := hbusy
  rate := rfl
  target := rfl
  responses := rfl
  valid := rfl
  stored := by simp
  kept _ _ := rfl

/-- One word, by R82. -/
theorem Captured.singleton (hinv : s.Inv) (hcapture : s.block.phase = .capture) (w : Word) :
    Captured s [w] (s.setBufEntry s.block.valid.toNat (narrow16 w)).countWord where
  inv := hinv.store hcapture _
  busy := by
    rw [State.countWord_block_phase, State.setBufEntry_block_phase, hcapture]
    split_ifs <;> simp
  rate := rfl
  target := rfl
  responses := rfl
  valid := hinv.valid_succ_toNat hcapture
  stored k v hk := by
    obtain ⟨rfl, rfl⟩ : k = 0 ∧ w = v := by simpa [List.getElem?_singleton] using hk
    rw [State.countWord_bufEntry, Nat.add_zero, State.setBufEntry_bufEntry_same]
  kept k hk := by
    rw [State.countWord_bufEntry, State.setBufEntry_bufEntry_other _ _ _ _ hk.ne]

/-- Words accepted one after the other: the later ones are stored past the first. -/
theorem Captured.cons {u : State} {w : Word} {ws : List Word} (hfirst : Captured s [w] u)
    (hrest : Captured u ws t) : Captured s (w :: ws) t where
  inv := hrest.inv
  busy := hrest.busy
  rate := hrest.rate.trans hfirst.rate
  target := hrest.target.trans hfirst.target
  responses := hrest.responses.trans hfirst.responses
  valid := by
    have hnext : u.block.valid.toNat = s.block.valid.toNat + 1 := hfirst.valid
    rw [hrest.valid, hnext, List.length_cons]
    omega
  stored k v hk := by
    have hnext : u.block.valid.toNat = s.block.valid.toNat + 1 := hfirst.valid
    cases k with
    | zero => rw [hrest.kept _ (by omega), hfirst.stored 0 v hk]
    | succ k => rw [← hrest.stored k v hk, hnext, Nat.add_assoc, Nat.add_comm 1 k]
  kept k hk := by
    have hnext : u.block.valid.toNat = s.block.valid.toNat + 1 := hfirst.valid
    rw [hrest.kept k (by omega), hfirst.kept k hk]

theorem execAll_cons_of_next {i : Instr} (is : List Instr) (h : exec i s = .next t) :
    execAll (i :: is) s = execAll is t := by
  rw [execAll, h]

/-- Outside `IDLE` every word up to the target is accepted. -/
theorem execAll_push (ws : List Word) (hinv : s.Inv) (hbusy : s.block.phase ≠ .idle)
    (hroom : s.block.valid.toNat + ws.length ≤ s.block.target.toNat) :
    ∃ t, execAll (ws.map Instr.push) s = some t ∧ Captured s ws t := by
  induction ws generalizing s with
  | nil => exact ⟨s, rfl, .nil hinv hbusy⟩
  | cons w ws ih =>
    rw [List.length_cons] at hroom
    have hcapture := (hinv.capture_iff hbusy).mpr (by omega)
    have hfirst := Captured.singleton hinv hcapture w
    have hvalid : _ = s.block.valid.toNat + 1 := hfirst.valid
    obtain ⟨t, hrun, hrest⟩ := ih hfirst.inv hfirst.busy (by rw [hfirst.target, hvalid]; omega)
    have hpush : exec (.push w) s = _ := execPush_of_capture w hcapture (hinv.valid_lt_cap hcapture)
    exact ⟨t, (execAll_cons_of_next _ hpush).trans hrun, hfirst.cons hrest⟩

/-! ## From the configuration to the payload -/

theorem execAll_append (is js : List Instr) (s : State) :
    execAll (is ++ js) s = (execAll is s).bind (execAll js) := by
  induction is generalizing s with
  | nil => rfl
  | cons i is ih =>
    cases h : exec i s with
    | next t => rw [List.cons_append, execAll_cons_of_next _ h, execAll_cons_of_next _ h, ih]
    | fault r => simp [execAll, h]
    | refused r => simp [execAll, h]

/-- The state in which a capture of the configuration `r`, `d` begins. -/
def State.started (r d : Word) (s : State) : State :=
  (((((s.setRate r).respond 0).setSeconds d).respond 0).beginCapture (product r d)).respond 0

theorem execAll_configure_start {r d : Word} (arg : Word) (hidle : s.block.phase = .idle)
    (hfits : product r d ≤ s.cap) :
    execAll [.setRate r, .setSeconds d, .start arg] s = some (s.started r d) := by
  have hrate := exec_setRate s r
  have hseconds := exec_setSeconds ((s.setRate r).respond 0) d
  have hstart := exec_start (((((s.setRate r).respond 0).setSeconds d)).respond 0) arg
  rw [if_pos hidle] at hrate
  rw [if_pos (by exact hidle)] at hseconds
  rw [if_neg (not_not_intro (by exact hidle)), if_neg (Nat.not_lt.mpr (by exact hfits))] at hstart
  rw [execAll_cons_of_next _ hrate, execAll_cons_of_next _ hseconds, execAll_cons_of_next _ hstart]
  rfl

theorem State.Inv.started {r d : Word} (hinv : s.Inv) (hidle : s.block.phase = .idle)
    (hfits : product r d ≤ s.cap) : (s.started r d).Inv :=
  ((((((hinv.setRate hidle r).respond 0).setSeconds hidle d).respond 0).beginCapture hfits).respond 0)

theorem State.started_busy (r d : Word) (s : State) : (s.started r d).block.phase ≠ .idle := by
  rw [State.started, State.respond_block, State.beginCapture_block_phase]
  split_ifs <;> simp

/-- Entry by entry the same samples are the same bytes. -/
theorem flatMap_range_of_getElem? {α β : Type} (f : Nat → List β) (g : α → List β) (xs : List α)
    (h : ∀ k x, xs[k]? = some x → f k = g x) : (List.range xs.length).flatMap f = xs.flatMap g := by
  have hmap : (List.range xs.length).map f = xs.map g := by
    apply List.ext_getElem (by simp)
    intro k _ hk
    rw [List.length_map] at hk
    simp [h k xs[k] (List.getElem?_eq_getElem hk)]
  rw [List.flatMap_def, hmap, List.flatMap_def]

theorem sampleLow_narrow16 (w : Word) : sampleLow (narrow16 w) = w.extractLsb' 16 8 := by
  ext i hi
  simp [sampleLow, narrow16, show i < 16 by omega]

theorem sampleHigh_narrow16 (w : Word) : sampleHigh (narrow16 w) = w.extractLsb' 24 8 := by
  ext i hi
  simp [sampleHigh, narrow16, show 8 + i < 16 by omega, ← Nat.add_assoc]

/-- The payload of a capture that began at entry 0. -/
theorem Captured.uploadPayload {ws : List Word} (h : Captured s ws t) (hzero : s.block.valid = 0) :
    t.uploadPayload = hdr s.block.rate (BitVec.ofNat 32 ws.length)
      ++ ws.flatMap fun w => [w.extractLsb' 16 8, w.extractLsb' 24 8] := by
  have hvalid : t.block.valid.toNat = ws.length := by simpa [hzero] using h.valid
  have hstored (k : Nat) (w : Word) (hk : ws[k]? = some w) : t.bufEntry k = narrow16 w := by
    simpa [hzero] using h.stored k w hk
  rw [State.uploadPayload, h.rate, ← hvalid, BitVec.ofNat_toNat, BitVec.setWidth_eq, hvalid]
  congr 1
  apply flatMap_range_of_getElem?
  intro k w hk
  rw [hstored k w hk, sampleLow_narrow16, sampleHigh_narrow16]

/-! ## The source's turn -/

theorem step_of_source_turn {w : Word} {ws : List Word} {ts : List Agent}
    (hturns : s.turns = .source :: ts) (hsamples : s.samples = w :: ws) :
    step s = execPush w { s with turns := ts, samples := ws } :=
  step_of_decode (State.takeOffer_source hturns hsamples) (decode_sample w)

/-- The source's turn in `CAPTURE` accepts its word. -/
theorem step_of_source_turn_capture (hinv : s.Inv) (hcapture : s.block.phase = .capture) {w : Word}
    {ws : List Word} {ts : List Agent} (hturns : s.turns = .source :: ts)
    (hsamples : s.samples = w :: ws) :
    ∃ t, step s = .next t ∧ t.samples = ws ∧ t.commands = s.commands ∧ t.turns = ts ∧
      Captured s [w] t := by
  have hpush : step s = _ := (step_of_source_turn hturns hsamples).trans
    (execPush_of_capture w hcapture (hinv.valid_lt_cap hcapture))
  have hcaptured := Captured.singleton (s := { s with turns := ts, samples := ws })
    (hinv.congr rfl rfl) hcapture w
  exact ⟨_, hpush, rfl, rfl, rfl, { hcaptured with }⟩

/-! ## The obligations -/

/-- Settles O17: `ready` is the phase `CAPTURE`, in which the word is counted, and elsewhere it is held. -/
theorem pushAcceptedExactlyWhenReady : Obligations.PushAcceptedExactlyWhenReady := by
  unfold Obligations.PushAcceptedExactlyWhenReady
  refine fun w ws ts s hturns hsamples => ⟨fun hclosed => ?held, fun hready hinv => ?accepted⟩
  case held =>
    have hpush := execPush_of_not_capture (s := { s with turns := ts, samples := ws }) w
      (s.block.ready_eq_false_iff.mp hclosed)
    rw [step_of_source_turn hturns hsamples, hpush, State.holdSample, ← hsamples]
  case accepted =>
    have hcapture := s.block.ready_eq_true_iff.mp hready
    obtain ⟨t, hstep, hwords, -, hrest, h⟩ := step_of_source_turn_capture hinv hcapture hturns hsamples
    have hvalid : t.block.valid.toNat = s.block.valid.toNat + 1 := h.valid
    refine ⟨t, hstep, hwords, hrest, hvalid, ?_⟩
    rw [Block.ready_eq_true_iff, h.inv.capture_iff h.busy, hvalid, h.target]

/-- Settles O18: only the narrowed sample is stored or responded. -/
theorem paddingHalfIsIgnored : Obligations.PaddingHalfIsIgnored := by
  unfold Obligations.PaddingHalfIsIgnored
  intro w v s h
  have hsample : narrow16 w = narrow16 v := h
  refine ⟨fun hcapture => ?_, ?_⟩
  · rw [exec, exec, execPush, execPush, hcapture, hsample]
  · rw [exec, exec, execNarrow, execNarrow, hsample]

/-- Settles O19, by induction on the words: R32 tells the phase from the counters after each. -/
theorem captureTakesExactlyTarget : Obligations.CaptureTakesExactlyTarget := by
  unfold Obligations.CaptureTakesExactlyTarget
  intro ws s hinv hcapture hroom
  obtain ⟨t, hrun, h⟩ := execAll_push ws hinv (by simp [hcapture]) hroom
  have hdone := h.inv.done_iff h.busy
  have hopen := h.inv.capture_iff h.busy
  rw [h.valid, h.target] at hdone hopen
  exact ⟨t, hrun, h.valid, h.inv.rawbCounts, h.target, hdone, hopen, h.stored, h.kept⟩

/-- Settles O20: the three commands begin a capture at entry 0, and its words fill the payload. -/
theorem wholeCaptureYieldsPayload : Obligations.WholeCaptureYieldsPayload := by
  unfold Obligations.WholeCaptureYieldsPayload
  intro r d arg ws s hinv hidle hfits hlength
  have hbegin := execAll_configure_start arg hidle (r := r) (d := d) hfits
  have htarget : (s.started r d).block.target.toNat = ws.length :=
    (word_ofNat_toNat (lt_word_of_le_cap hinv.capLegal hfits)).trans hlength.symm
  have hzero : (s.started r d).block.valid = 0 := rfl
  obtain ⟨t, hrun, h⟩ := execAll_push ws (hinv.started hidle hfits) (s.started_busy r d)
    (by simp [hzero, htarget])
  refine ⟨t, ?_, (h.inv.done_iff h.busy).mpr ?_, ?_, h.uploadPayload hzero⟩
  · rw [execAll_append, hbegin, Option.bind_some, hrun]
  · rw [h.valid, h.target, htarget, hzero]
    simp
  · rw [h.responses]
    simp [State.started]

/-- Settles O40: past the phase and range checks the entry is compared with `CAP`. -/
theorem absentBufferEntryFaults : Obligations.AbsentBufferEntryFaults := by
  unfold Obligations.AbsentBufferEntryFaults
  refine fun w s => ⟨fun hcapture hpast => ?_, fun hdone hpast hin => ?_⟩
  · rw [exec, execPush, hcapture]
    exact if_neg (Nat.not_lt.mpr hpast)
  · rw [exec, execReadPayload, payloadLen, if_neg (not_not_intro hdone), if_neg (Nat.not_le.mpr hin),
      if_neg (Nat.not_lt.mpr hpast)]

/-- Settles O13: no meaning of the four reads its operand. -/
theorem ignoredOperandsHaveNoEffect : Obligations.IgnoredOperandsHaveNoEffect :=
  fun _ _ _ => ⟨rfl, rfl, rfl, rfl⟩

end Sys2Proof.Machine
end

section
/-! What a step can do in `DONE` (20_memory.md R49) and in `CAPTURE` (40_acquisition.md R86,
60_exceptions.md R152, R154): a payload that stays, a capture that ends in two ways, and one that a silent
source never ends. -/

namespace Sys2Proof.Machine

variable {s s' t : State} {i : Instr}

/-! ## From `DONE` -/

theorem payloadByte_congr (hrate : t.block.rate = s.block.rate) (hvalid : t.block.valid = s.block.valid)
    (hbuf : t.block.buf = s.block.buf) (hdraw : t.bufDraw = s.bufDraw) (a : Nat) :
    payloadByte t a = payloadByte s a := by
  simp [payloadByte, hrate, hvalid, State.bufEntry_congr hbuf hdraw]

theorem uploadPayload_congr (hvalid : t.block.valid = s.block.valid)
    (hbytes : ∀ a, payloadByte t a = payloadByte s a) : t.uploadPayload = s.uploadPayload := by
  rw [uploadPayload_eq_map_payloadByte, uploadPayload_eq_map_payloadByte, payloadLen, payloadLen, hvalid,
    funext hbytes]

/-- In `DONE` the configuration is locked and no push is accepted. -/
theorem Effect.of_done (h : Effect s i t) (hdone : s.block.phase = .done) :
    t.block.phase = .idle ∨ (t.block.phase = .done ∧ t.block.rate = s.block.rate ∧
      t.block.valid = s.block.valid ∧ t.block.buf = s.block.buf ∧ t.bufDraw = s.bufDraw) := by
  cases h
  case respond | raise | hold => simp [hdone]
  case release | reset => exact .inl rfl
  case setRate hidle | setSeconds hidle | begin hidle _ => simp [hdone] at hidle
  case store hcapture _ => simp [hdone] at hcapture

theorem step_of_done (hdone : s.block.phase = .done) (h : step s = .next t) :
    t.block.phase = .idle ∨ (t.block.phase = .done ∧ t.block.rate = s.block.rate ∧
      t.block.valid = s.block.valid ∧ t.block.buf = s.block.buf ∧ t.bufDraw = s.bufDraw) := by
  obtain ⟨-, rfl⟩ | ⟨o, i, s', htake, -, hexec⟩ | ⟨c, op, s', htake, -, rfl⟩ := step_cases h
  · simp [hdone]
  all_goals obtain ⟨hblock, -, -, hdraw⟩ := State.takeOffer_frame htake
  · simpa [hblock, hdraw] using (effect_of_exec hexec).of_done (hblock ▸ hdone)
  · simp [hblock, hdraw, hdone]

/-! ## From `CAPTURE` -/

/-- In `CAPTURE` a host command writes no register but a flag. -/
theorem Effect.of_capture_host (h : Effect s i t) (hcapture : s.block.phase = .capture)
    (hhost : i.fromHost = true) : t.block.phase = .capture ∧ t.block.valid = s.block.valid ∧
      t.block.rawb = s.block.rawb ∧ t.block.target = s.block.target := by
  cases h
  case respond | raise => simp [hcapture]
  case setRate hidle | setSeconds hidle | begin hidle _ => simp [hcapture] at hidle
  case release hdone => simp [hcapture] at hdone
  case store | hold | reset => cases hhost

theorem Effect.of_capture_push {w : Word} (h : Effect s (.push w) t)
    (hcapture : s.block.phase = .capture) : t.block.phase =
      if s.block.valid.toNat + 1 = s.block.target.toNat then .done else .capture := by
  cases h
  case respond host _ | raise host _ => cases host
  case store => simp [hcapture]
  case hold hclosed => exact absurd hcapture hclosed

theorem Effect.of_reset (h : Effect s .reset t) : t = s.resetBlock := by
  cases h
  case respond host _ | raise host _ => cases host
  case reset => rfl

/-- The host's turn with a `READ_STATUS`. -/
theorem step_of_readStatus_turn {c : CommandWord} {cs : List CommandWord} {ts : List Agent} {arg : Word}
    (hturns : s.turns = .host :: ts) (hcommands : s.commands = c :: cs)
    (hdecode : decode (.command c) = .ok (.readStatus arg)) :
    step s = .next (State.respond s.block.status { s with turns := ts, commands := cs }) :=
  step_of_decode (State.takeOffer_host hturns hcommands) hdecode

/-! ## A silent source -/

/-- A capture with no reset to come and no word to come: the source has none or gets no turn. -/
structure State.Stalled (s : State) : Prop where
  capture : s.block.phase = .capture
  noReset : ∀ x ∈ s.turns, x ≠ Agent.reset
  silent : s.samples = [] ∨ ∀ x ∈ s.turns, x ≠ Agent.source

/-- The counters, the buffer and the source's words are the same. -/
structure SameCapture (s t : State) : Prop where
  valid : t.block.valid = s.block.valid
  rawb : t.block.rawb = s.block.rawb
  target : t.block.target = s.block.target
  buf : t.block.buf = s.block.buf
  samples : t.samples = s.samples

theorem SameCapture.refl (s : State) : SameCapture s s :=
  ⟨rfl, rfl, rfl, rfl, rfl⟩

theorem SameCapture.trans {u : State} (h : SameCapture s t) (h' : SameCapture t u) : SameCapture s u :=
  ⟨h'.valid.trans h.valid, h'.rawb.trans h.rawb, h'.target.trans h.target, h'.buf.trans h.buf,
    h'.samples.trans h.samples⟩

/-- Fewer turns and the same words are no less silent. -/
theorem State.Stalled.of_subset (h : s.Stalled) (hcapture : t.block.phase = .capture)
    (hturns : t.turns ⊆ s.turns) (hsamples : t.samples = s.samples) : t.Stalled where
  capture := hcapture
  noReset x hx := h.noReset x (hturns hx)
  silent := hsamples ▸ h.silent.imp_right fun hsource x hx => hsource x (hturns hx)

/-- Only the host still offers anything. -/
theorem State.Stalled.takeOffer {o : Offer} (h : s.Stalled) (htake : s.takeOffer = some (o, s')) :
    (∃ c, o = .command c) ∧ s'.Stalled ∧ SameCapture s s' := by
  obtain ⟨c, cs, ts, rfl, hturns, -, rfl⟩ | ⟨w, ws, ts, -, hturns, hsamples, -⟩ | ⟨ts, -, hturns, -⟩ :=
    State.takeOffer_cases htake
  · exact ⟨⟨c, rfl⟩, h.of_subset h.capture (by simp [hturns]) rfl, ⟨rfl, rfl, rfl, rfl, rfl⟩⟩
  · obtain hnone | hsource := h.silent
    · simp [hsamples] at hnone
    · exact absurd rfl (hsource .source (by simp [hturns]))
  · exact absurd rfl (h.noReset .reset (by simp [hturns]))

theorem State.Stalled.exec (h : s.Stalled) (hhost : i.fromHost = true) (hexec : exec i s = .next t) :
    t.Stalled ∧ SameCapture s t := by
  have he := effect_of_exec hexec
  obtain ⟨hcapture, hvalid, hrawb, htarget⟩ := he.of_capture_host h.capture hhost
  have hsamples := he.samples_eq hhost
  exact ⟨h.of_subset hcapture (he.turns_eq ▸ List.Subset.refl _) hsamples,
    ⟨hvalid, hrawb, htarget, he.buf_eq hhost, hsamples⟩⟩

theorem State.Stalled.step_next (h : s.Stalled) : ∃ t, step s = .next t := by
  obtain hnext | ⟨o, i, s', htake, hdecode, hexec⟩ := step_next_or_exec s
  · exact hnext
  · obtain ⟨⟨c, rfl⟩, hstalled, -⟩ := h.takeOffer htake
    rw [hexec]
    exact exec_next_of_fromHost (fromHost_of_decode_command hdecode) fun hdone => by
      simp [hstalled.capture] at hdone

theorem State.Stalled.step (h : s.Stalled) (hstep : Machine.step s = .next t) :
    t.Stalled ∧ SameCapture s t := by
  obtain ⟨-, rfl⟩ | ⟨o, i, s', htake, hdecode, hexec⟩ | ⟨c, op, s', htake, -, rfl⟩ := step_cases hstep
  · exact ⟨h.of_subset h.capture (List.tail_subset _) rfl, ⟨rfl, rfl, rfl, rfl, rfl⟩⟩
  all_goals obtain ⟨⟨c', ho⟩, hstalled, hsame⟩ := h.takeOffer htake
  · subst ho
    obtain ⟨hnext, hsame'⟩ := hstalled.exec (fromHost_of_decode_command hdecode) hexec
    exact ⟨hnext, hsame.trans hsame'⟩
  · exact ⟨hstalled.of_subset hstalled.capture (List.Subset.refl _) rfl,
      hsame.trans ⟨rfl, rfl, rfl, rfl, rfl⟩⟩

theorem State.Stalled.stepAll (h : s.Stalled) (k : Nat) :
    ∃ t, Machine.stepAll k s = some t ∧ t.Stalled ∧ SameCapture s t := by
  induction k generalizing s with
  | zero => exact ⟨s, rfl, h, .refl s⟩
  | succ k ih =>
    obtain ⟨u, hu⟩ := h.step_next
    obtain ⟨hstalled, hsame⟩ := h.step hu
    obtain ⟨t, hrun, ht, hsame'⟩ := ih hstalled
    exact ⟨t, (stepAll_succ_of_next k hu).trans hrun, ht, hsame.trans hsame'⟩

/-! ## The obligations -/

/-- Settles O50: the payload is a function of `RATE`, `VALID` and the buffer, which a step from `DONE` to
`DONE` keeps. -/
theorem payloadIsStableInDone : Obligations.PayloadIsStableInDone := by
  unfold Obligations.PayloadIsStableInDone
  intro s t hdone h
  refine (step_of_done hdone h).imp_right fun ⟨hphase, hrate, hvalid, hbuf, hdraw⟩ => ?_
  have hbytes := payloadByte_congr hrate hvalid hbuf hdraw
  exact ⟨hphase, hrate, hvalid, hbytes, uploadPayload_congr hvalid hbytes⟩

/-- Settles O51: the host's commands leave the phase, and the two other inputs are the stated ends. -/
theorem captureEndsOnlyByLastPushOrReset : Obligations.CaptureEndsOnlyByLastPushOrReset := by
  unfold Obligations.CaptureEndsOnlyByLastPushOrReset
  intro s t hcapture h
  obtain ⟨-, rfl⟩ | ⟨o, i, s', htake, hdecode, hexec⟩ | ⟨c, op, s', htake, -, rfl⟩ := step_cases h
  · exact .inl hcapture
  all_goals obtain ⟨hblock, -⟩ := State.takeOffer_frame htake
  · have he := effect_of_exec hexec
    cases hi : i.fromHost with
    | true => exact .inl (he.of_capture_host (hblock ▸ hcapture) hi).1
    | false =>
      cases i with
      | push w =>
        obtain ⟨hturns, hwords⟩ := State.takeOffer_of_push htake hdecode
        have hphase := he.of_capture_push (hblock ▸ hcapture)
        rw [hblock] at hphase
        by_cases hlast : s.block.valid.toNat + 1 = s.block.target.toNat
        · exact .inr (.inl ⟨hphase.trans (if_pos hlast), hturns, hwords, hlast⟩)
        · exact .inl (hphase.trans (if_neg hlast))
      | reset =>
        rw [he.of_reset]
        exact .inr (.inr ⟨rfl, State.takeOffer_of_reset htake hdecode⟩)
      | _ => cases hi
  · exact .inl (by simp [hblock, hcapture])

/-- Settles O52, by induction on the steps: no turn can bring a word or a reset. -/
theorem stalledCaptureNeverEnds : Obligations.StalledCaptureNeverEnds := by
  unfold Obligations.StalledCaptureNeverEnds
  intro k s hcapture hreset hsilent
  obtain ⟨t, hrun, hstalled, hsame⟩ := State.Stalled.stepAll ⟨hcapture, hreset, hsilent⟩ k
  exact ⟨t, hrun, hstalled.capture, hsame.valid, hsame.rawb, hsame.target, hsame.buf, hsame.samples⟩

/-- Settles O54: the response is the status word of the phase in force at the host's turn. -/
theorem statusAndFinalPushEitherOrder : Obligations.StatusAndFinalPushEitherOrder := by
  unfold Obligations.StatusAndFinalPushEitherOrder
  intro s c cs w ws arg hinv hcapture hlast hcommands hdecode hsamples
  have hfinal {u t : State} (h : Captured u [w] t) (hblock : u.block = s.block) :
      t.block.phase = .done := by
    have hvalid : t.block.valid.toNat = u.block.valid.toNat + 1 := h.valid
    rw [h.inv.done_iff h.busy, hvalid, h.target, hblock, hlast]
  constructor
  · have hread := step_of_readStatus_turn (s := { s with turns := [.host, .source] }) rfl hcommands hdecode
    obtain ⟨t, hpush, -, -, -, h⟩ := step_of_source_turn_capture
      (s := State.respond s.block.status { s with turns := [.source], commands := cs })
      (hinv.congr rfl rfl) hcapture rfl hsamples
    refine ⟨t, s.block.status, (stepAll_succ_of_next 1 hread).trans (stepAll_succ_of_next 0 hpush),
      hfinal h rfl, h.responses, ?_⟩
    rw [Block.status_getLsbD_done, Block.done_eq_false_iff, hcapture]
    decide
  · obtain ⟨u, hpush, -, hpending, hturns, h⟩ := step_of_source_turn_capture
      (s := { s with turns := [.source, .host] }) (hinv.congr rfl rfl) hcapture rfl hsamples
    have hread := step_of_readStatus_turn hturns (hpending.trans hcommands) hdecode
    have hdone := hfinal h rfl
    refine ⟨_, u.block.status, (stepAll_succ_of_next 1 hpush).trans (stepAll_succ_of_next 0 hread),
      hdone, congrArg (· ++ [u.block.status]) h.responses, ?_⟩
    rw [Block.status_getLsbD_done, Block.done_eq_true_iff, hdone]

end Sys2Proof.Machine
end

section
/-! No stale sample reaches the host (10_state.md R32 item 5): two runs of blocks that differ in their
buffers, side by side. -/

namespace Sys2Proof.Machine

variable {s s' t : State} {i : Instr}

/-! ## The same block with another buffer -/

/-- `s` with other contents of `BUF`, written and unspecified. -/
def State.withBuf (buf : Memory) (draw : Nat) (s : State) : State :=
  { s with bufDraw := draw, block := { s.block with buf := buf } }

section
variable (s : State) (buf : Memory) (draw : Nat)

@[simp] theorem State.withBuf_responses : (s.withBuf buf draw).responses = s.responses := rfl
@[simp] theorem State.withBuf_block_valid : (s.withBuf buf draw).block.valid = s.block.valid := rfl

theorem State.withBuf_respond (v : Word) :
    (s.respond v).withBuf buf draw = (s.withBuf buf draw).respond v := rfl

theorem State.register_withBuf (sel : Word) : (s.withBuf buf draw).register sel = s.register sel := rfl

theorem State.takeOffer_withBuf : (s.withBuf buf draw).takeOffer =
    s.takeOffer.map fun taken => (taken.1, taken.2.withBuf buf draw) := by
  obtain ⟨cap, block, commands, responses, samples, turns, bufDraw⟩ := s
  cases turns with
  | nil => rfl
  | cons agent ts =>
    cases agent with
    | host => cases commands <;> rfl
    | source => cases samples <;> rfl
    | reset => rfl

end

/-- No command of the host but `READ_PAYLOAD` reads the buffer, and none writes it. -/
theorem exec_withBuf (hhost : i.fromHost = true) (hread : ∀ a, i ≠ .readPayload a)
    (h : exec i s = .next t) (buf : Memory) (draw : Nat) :
    exec i (s.withBuf buf draw) = .next (t.withBuf buf draw) := by
  cases i with
  | setRate x | setSeconds x | start x | release x =>
    simp only [exec_setRate, exec_setSeconds, exec_start, exec_release, Host.Outcome.next.injEq] at h ⊢
    rw [← h, State.withBuf_respond]
    simp only [apply_ite (State.withBuf buf draw)]
    rfl
  | nop x | readStatus x | narrow x =>
    cases h
    rfl
  | readReg sel =>
    rw [exec, execReadReg] at h ⊢
    rw [State.register_withBuf]
    cases hv : s.register sel with
    | some v | none =>
      rw [hv] at h
      cases h
      rfl
  | readPayload a => exact absurd rfl (hread a)
  | push w => cases hhost
  | reset => cases hhost

/-! ## The bytes of the capture -/

/-- The two blocks differ at most in the buffer, and outside `IDLE` not below entry `VALID`: what the
capture stored is the same in both. -/
def Indistinct (s s' : State) : Prop :=
  (∃ buf draw, s' = s.withBuf buf draw) ∧
    (s.block.phase ≠ .idle → ∀ a, a < 2 * s.block.valid.toNat → s'.bufByte a = s.bufByte a)

/-- A host command leaves the entries below `VALID` or gives them up. -/
theorem Effect.captured_before (h : Effect s i t) (hhost : i.fromHost = true)
    (hbusy : t.block.phase ≠ .idle) {a : Nat} (ha : a < 2 * t.block.valid.toNat) :
    s.block.phase ≠ .idle ∧ a < 2 * s.block.valid.toNat := by
  cases h
  case respond | raise => simpa using And.intro hbusy ha
  case setRate hidle | setSeconds hidle => exact absurd hidle hbusy
  case begin => exact absurd ha (Nat.not_lt_zero a)
  case release => exact absurd rfl hbusy
  case store | hold | reset => cases hhost

/-- A payload byte is told by the registers and the entries below `VALID`. -/
theorem payloadByte_congr_of_lt (hrate : t.block.rate = s.block.rate)
    (hvalid : t.block.valid = s.block.valid)
    (hbytes : ∀ a, a < 2 * s.block.valid.toNat → t.bufByte a = s.bufByte a) {a : Nat}
    (ha : a < payloadLen s.block) : payloadByte t a = payloadByte s a := by
  by_cases hheader : a < 44
  · rw [payloadByte_of_lt hheader, payloadByte_of_lt hheader, hrate, hvalid]
  · have hentry : t.bufEntry ((a - 44) / 2) = s.bufEntry ((a - 44) / 2) := by
      unfold payloadLen at ha
      rw [State.bufEntry, State.bufEntry, hbytes _ (by omega), hbytes _ (by omega)]
    rw [payloadByte, payloadByte, if_neg hheader, if_neg hheader, hentry]

/-- The bytes of an entry just stored are its sample's. -/
theorem State.setBufEntry_bufByte_congr {k a : Nat} (v : Sample)
    (h : a ≠ 2 * k → a ≠ 2 * k + 1 → s'.bufByte a = s.bufByte a) :
    (s'.setBufEntry k v).bufByte a = (s.setBufEntry k v).bufByte a := by
  by_cases hlow : a = 2 * k
  · simp [State.bufByte, hlow]
  · by_cases hhigh : a = 2 * k + 1
    · simp [State.bufByte, hhigh]
    · rw [State.setBufEntry_bufByte_other _ _ _ _ hlow hhigh,
        State.setBufEntry_bufByte_other _ _ _ _ hlow hhigh, h hlow hhigh]

/-- Below the payload's end and below the buffer's, the byte is the response. -/
theorem exec_readPayload_of_lt_cap {a : Word} (hdone : s.block.phase = .done)
    (hin : a.toNat < payloadLen s.block) (hcap : a.toNat < 44 + 2 * s.cap) :
    exec (.readPayload a) s = .next (s.respond (zext32 (payloadByte s a.toNat))) := by
  rw [exec, execReadPayload, if_neg (not_not_intro hdone), if_neg (Nat.not_le.mpr hin), if_pos hcap]

/-! ## Two steps side by side -/

/-- A `READ_PAYLOAD` responds the same in both blocks. -/
theorem Indistinct.exec_readPayload (hsame : Indistinct s s') {a : Word}
    (h : exec (.readPayload a) s = .next t) :
    ∃ buf draw, exec (.readPayload a) s' = .next (t.withBuf buf draw) := by
  obtain ⟨⟨buf, draw, rfl⟩, hbytes⟩ := hsame
  refine ⟨buf, draw, ?_⟩
  obtain ⟨hphase, rfl⟩ | ⟨hdone, hpast, rfl⟩ | ⟨hdone, hin, hcap, rfl⟩ := execReadPayload_cases h
  · exact exec_readPayload_of_not_done a hphase
  · exact exec_readPayload_of_past_end hdone hpast
  · have hbyte : payloadByte (s.withBuf buf draw) a.toNat = payloadByte s a.toNat :=
      payloadByte_congr_of_lt (s := s) (t := s.withBuf buf draw) rfl rfl (hbytes (by simp [hdone])) hin
    rw [exec_readPayload_of_lt_cap (s := s.withBuf buf draw) hdone hin hcap, hbyte, State.withBuf_respond]

theorem Indistinct.exec_fromHost (hsame : Indistinct s s') (hhost : i.fromHost = true)
    (h : exec i s = .next t) : ∃ t', exec i s' = .next t' ∧ Indistinct t t' := by
  obtain ⟨buf, draw, hexec⟩ : ∃ buf draw, exec i s' = .next (t.withBuf buf draw) := by
    by_cases hread : ∃ a, i = .readPayload a
    · obtain ⟨a, rfl⟩ := hread
      exact hsame.exec_readPayload h
    · obtain ⟨⟨buf, draw, rfl⟩, -⟩ := hsame
      exact ⟨buf, draw, exec_withBuf hhost (not_exists.mp hread) h buf draw⟩
  refine ⟨_, hexec, ⟨buf, draw, rfl⟩, fun hbusy a ha => ?_⟩
  have he := effect_of_exec h
  obtain ⟨hbusy', ha'⟩ := he.captured_before hhost hbusy ha
  rw [(effect_of_exec hexec).bufByte_eq hhost, he.bufByte_eq hhost, hsame.2 hbusy' a ha']

/-- A push stores the same sample at the same entry, or is held in both. -/
theorem Indistinct.exec_push (hsame : Indistinct s s') {w : Word} (h : exec (.push w) s = .next t) :
    ∃ t', exec (.push w) s' = .next t' ∧ Indistinct t t' := by
  obtain ⟨⟨buf, draw, rfl⟩, hbytes⟩ := hsame
  obtain ⟨hcapture, hroom, rfl⟩ | ⟨hclosed, rfl⟩ := execPush_cases h
  · refine ⟨_, execPush_of_capture w hcapture hroom, ⟨_, draw, rfl⟩, fun _ a ha => ?_⟩
    have hbelow : a < 2 * (s.block.valid.toNat + 1) := by
      simp only [State.countWord_block_valid, State.setBufEntry_block_valid] at ha
      bv_omega
    rw [State.countWord_bufByte, State.countWord_bufByte]
    exact State.setBufEntry_bufByte_congr _ fun hlow hhigh =>
      hbytes (by simp [hcapture]) a (by rw [State.withBuf_block_valid] at hlow hhigh; omega)
  · exact ⟨_, execPush_of_not_capture w hclosed, ⟨buf, draw, rfl⟩, hbytes⟩

/-- A reset leaves two reset blocks, in `IDLE`. -/
theorem Indistinct.resetBlock (hsame : Indistinct s s') : Indistinct s.resetBlock s'.resetBlock := by
  obtain ⟨⟨buf, draw, rfl⟩, -⟩ := hsame
  exact ⟨⟨[], draw + 1, rfl⟩, fun hbusy => absurd rfl hbusy⟩

theorem Indistinct.exec (hsame : Indistinct s s') (h : exec i s = .next t) :
    ∃ t', exec i s' = .next t' ∧ Indistinct t t' := by
  cases hi : i.fromHost with
  | true => exact hsame.exec_fromHost hi h
  | false =>
    cases i with
    | push w => exact hsame.exec_push h
    | reset =>
      cases h
      exact ⟨_, exec_reset s', hsame.resetBlock⟩
    | _ => cases hi

/-- The same offer is taken from both. -/
theorem Indistinct.takeOffer (hsame : Indistinct s s') {o : Offer} (htake : s.takeOffer = some (o, t)) :
    ∃ t', s'.takeOffer = some (o, t') ∧ Indistinct t t' := by
  obtain ⟨⟨buf, draw, rfl⟩, hbytes⟩ := hsame
  obtain ⟨hblock, -, -, hdraw⟩ := State.takeOffer_frame htake
  refine ⟨_, by rw [State.takeOffer_withBuf, htake]; rfl, ⟨buf, draw, rfl⟩, fun hbusy a ha => ?_⟩
  rw [hblock] at hbusy ha
  rw [State.bufByte_congr (congrArg Block.buf hblock) hdraw, ← hbytes hbusy a ha]
  rfl

theorem Indistinct.step (hsame : Indistinct s s') (h : step s = .next t) :
    ∃ t', Machine.step s' = .next t' ∧ Indistinct t t' := by
  obtain ⟨htake, rfl⟩ | ⟨o, i, u, htake, hdecode, hexec⟩ | ⟨c, op, u, htake, hdecode, rfl⟩ :=
    step_cases h
  · obtain ⟨⟨buf, draw, rfl⟩, hbytes⟩ := hsame
    exact ⟨_, step_of_takeOffer_none (by rw [State.takeOffer_withBuf, htake]; rfl),
      ⟨buf, draw, rfl⟩, hbytes⟩
  all_goals obtain ⟨u', htake', hsame'⟩ := hsame.takeOffer htake
  · rw [step_of_decode htake' hdecode]
    exact hsame'.exec hexec
  · rw [step_of_takeOffer htake', runOffer, hdecode]
    obtain ⟨⟨buf, draw, rfl⟩, hbytes⟩ := hsame'
    exact ⟨_, rfl, ⟨buf, draw, rfl⟩, hbytes⟩

theorem Indistinct.stepAll (hsame : Indistinct s s') (k : Nat) (h : stepAll k s = some t) :
    ∃ t', Machine.stepAll k s' = some t' ∧ Indistinct t t' := by
  induction k generalizing s s' with
  | zero =>
    cases h
    exact ⟨s', rfl, hsame⟩
  | succ k ih =>
    cases hstep : Machine.step s with
    | next u =>
      obtain ⟨u', hstep', hsame'⟩ := hsame.step hstep
      rw [stepAll_succ_of_next k hstep] at h
      rw [stepAll_succ_of_next k hstep']
      exact ih hsame' h
    | fault r => simp [Machine.stepAll, hstep] at h
    | refused r => simp [Machine.stepAll, hstep] at h

/-! ## The obligation -/

/-- Settles O53, by a simulation: in `IDLE` nothing is captured, and what a later capture stores is the
same in both blocks, so every read below `VALID` is. -/
theorem staleSamplesNeverReachHost : Obligations.StaleSamplesNeverReachHost := by
  unfold Obligations.StaleSamplesNeverReachHost
  intro k s buf draw t _ _ hidle hrun
  have hstart : Indistinct s (s.withBuf buf draw) :=
    ⟨⟨buf, draw, rfl⟩, fun hbusy => absurd hidle hbusy⟩
  obtain ⟨t', hrun', ⟨buf', draw', rfl⟩, -⟩ := hstart.stepAll k hrun
  exact ⟨_, hrun', t.withBuf_responses buf' draw'⟩

end Sys2Proof.Machine
end
